-- ==== Sys2Proof/Word.lean ====
section
/-! DEFINITION. The word types of the block's ports (20_memory.md R40). -/

namespace Sys2Proof

/-- A command word, the unit of the `CMD` port (R40, R60). Bit 0 is the least significant (R15). -/
abbrev Word := BitVec 32

/-- A payload byte, the unit of the `PAYLOAD` port (R40). -/
abbrev Byte := BitVec 8

/-- One bit of a bit sequence, or one pixel: `true` is 1, a mark (R15, R124). -/
abbrev Bit := Bool

end Sys2Proof
end

