-- ==== Sys2Proof/Config.lean ====
section
/-! DEFINITION. The constants of 10_state.md R30, which "a model treats as configuration of the model
(its arguments), not as state", and the one host capability that the spec leaves opaque. -/

namespace Sys2Proof

/-- The constants of 10_state.md R30. A literal such as `PRE = 000111` is written leftmost bit first
(00_scope.md R8, decision D11), so it is the bit vector `0b000111` whose most significant bit is the
first bit emitted. -/
structure Config where
  /-- `LCG_M`, the modulus of the generator (R6). -/
  lcgM : Nat
  /-- `LCG_A`, the multiplier of the generator (R6). -/
  lcgA : Nat
  /-- `LCG_C`, the increment of the generator (R6). -/
  lcgC : Nat
  /-- `SEED0`, the fixed initial seed (R7, R13). -/
  seed0 : BitVec 32
  /-- `PRE`, the preamble (R8). -/
  pre : BitVec 6
  /-- `POST`, the postamble (R8, R107). -/
  post : BitVec 6
  /-- `STEP[0]`, entry 0 of the step-code table (R9). -/
  step0 : BitVec 2
  /-- `STEP[1]`, entry 1: the open parameter `STEP1` (R9, decision D9). -/
  step1 : BitVec 2
deriving DecidableEq, Repr

/-- The constants at the values of 10_state.md R30. UNVERIFIED: the source's literals are unaudited
(93_implementation_defined.md I1, I3, I4; log 2). DESIGN CHOICE: `STEP1` stands at its default `10`
(00_scope.md R9, 91_not_in_source.md N4; log 1), and a claim that leans on that value is unsafe. -/
def Config.reference : Config where
  lcgM := 2147483647
  lcgA := 1103515245
  lcgC := 12345
  seed0 := 0xDEADBEEF#32
  pre := 0b000111#6
  post := 0b111000#6
  step0 := 0b01#2
  step1 := 0b10#2

/-- The constants of R30 with the open parameter `STEP1` at a given value (R9, 93 I2). -/
def Config.withStep1 (step1 : BitVec 2) : Config :=
  { Config.reference with step1 := step1 }

/-- What the seed register needs of the constants (R13): the modulus is positive and every value the
generator yields fits in the 32 bits of `SEED`. -/
abbrev Config.Legal (cfg : Config) : Prop :=
  0 < cfg.lcgM ∧ cfg.lcgM ≤ 2 ^ 32

/-- The FEC capability of the host (48_host_pipeline.md R175): from the codeword size `n`, the message
size `k` and a message it gives exactly `n` bytes. It has no body: "the codeword bytes cannot be
computed from the source" (91_not_in_source.md N5, 93 I13; log 13). The block never calls it. -/
opaque Config.fecEncode (n k : Nat) (message : List Byte) : Vector Byte n

end Sys2Proof
end

