-- ==== Sys2Proof/Syntax.lean ====
section
/-! DEFINITION. The commands of the block, one constructor per row of spec/opcode_table.json
(30_encoding.md R65). -/

namespace Sys2Proof

/-- A decoded command (30_encoding.md R66). The operands are the fields of R62 and R63 as they stand,
unsigned (R64). -/
inductive Instr where
  /-- `INIT bw, lh`: construct the encoder with a new geometry (R62, R141). -/
  | init (bw lh : BitVec 12)
  /-- `ENCODE_LINE n`: encode one line of `n` payload bytes (R63, R143). -/
  | encodeLine (n : BitVec 16)
  /-- Every other word (R67), which is performed as ILLEGAL_COMMAND (R207). -/
  | illegal (w : Word)
deriving DecidableEq, Repr

end Sys2Proof
end

