-- ==== Sys2Proof/Machine/State.lean ====
section
/-! DEFINITION. The state of the block (10_state.md R20) with the port queues of its environment (R35),
the reasons a step can stop, and the state after reset (70_reset_and_hazards.md R240). -/

namespace Sys2Proof.Machine

/-- One tile event of the `PIXEL` port (20_memory.md R43): "its height `H`, its width `W` and its
`H · W` pixel bits". `rows` is the matrix `T`, row 0 first and column 0 first in each row. -/
structure Tile where
  /-- `H`, the number of rows. -/
  height : Nat
  /-- `W`, the number of columns. -/
  width : Nat
  /-- `T[r][c]`: 1 is a mark, 0 is no mark (42_rasterizer.md R124). -/
  rows : List (List Bit)
deriving DecidableEq, Repr

/-- The state of the block, "exactly the elements of this table" (10_state.md R20), with the three
queues that R35 adds to a model's state and the consumer's side of the tile handshake. -/
structure State where
  /-- `SEED`, the whitener state (R21). -/
  seed : BitVec 32
  /-- `CURSOR`, the step cursor, 0 or 1 (R24). -/
  cursor : Fin 2
  /-- `BW`, the configured `block_width` (R25). -/
  bw : BitVec 12
  /-- `LH`, the configured `line_height` (R25). -/
  lh : BitVec 12
  /-- `CONFIGURED` (R28). -/
  configured : Bool
  /-- `FAULT` (R28). -/
  fault : Bool
  /-- `ERR_CODE` (R28, 60_exceptions.md R201). -/
  errCode : BitVec 3
  /-- The `CMD` queue: words offered and not yet taken, oldest first (20_memory.md R41). -/
  cmd : List Word
  /-- The `PAYLOAD` queue: bytes offered and not yet taken, oldest first (20_memory.md R42). -/
  payload : List Byte
  /-- The `PIXEL` output: the tiles emitted, oldest first (20_memory.md R43). -/
  pixel : List Tile
  /-- The consumer accepts a tile now (00_scope.md R17, 20_memory.md R53). An input of the environment:
  no command writes it (log 4). -/
  pixelAccept : Bool
deriving DecidableEq, Repr

/-- The reasons for which the machine itself stops with a fault: none. Every error of
60_exceptions.md R201 is a next state in which `FAULT` is set (R203), and a hold is a step that
changes nothing (20_memory.md R53; log 3). Nobody raises a fault, so the type is empty (log 8). -/
inductive Fault where
deriving DecidableEq, Repr

/-- The reasons for which a step is refused. -/
inductive Refusal where
  /-- Raised only by an arm of `exec` whose instruction has no meaning yet; safe. No arm raises it
  (log 8). -/
  | notModelled (mnemonic : String)
deriving DecidableEq, Repr

/-- The block right after a hardware reset (R240, the reset column of R20) at power-on: no tile has
been emitted (DESIGN CHOICE, log 7) and the consumer accepts tiles (DESIGN CHOICE, log 4). -/
def State.resetWith (cfg : Config) : State where
  seed := cfg.seed0
  cursor := 0
  bw := 0#12
  lh := 0#12
  configured := false
  fault := false
  errCode := 0#3
  cmd := []
  payload := []
  pixel := []
  pixelAccept := true

/-- The machine right after reset, with the constants of 10_state.md R30: `SEED = 0xDEADBEEF` and every
other element 0 (R240). -/
def State.reset : State := State.resetWith Config.reference

end Sys2Proof.Machine
end

