-- ==== Sys2Proof/Machine/Operands.lean ====
section
/-! DEFINITION. The operands of the commands: field values (30_encoding.md R64) and payload bits
(20_memory.md R46, R47, 41_line_framer.md R100). -/

namespace Sys2Proof.Machine

/-- A geometry that INIT stores: neither field is 0 (42_rasterizer.md R126, 60_exceptions.md R206). The
fields are unsigned, so non-positive means 0, and 12 bits bound them by 4095 (00_scope.md R10). -/
def legalGeometry (bw lh : BitVec 12) : Bool := bw != 0#12 && lh != 0#12

/-- A fixed-width bit string as a bit sequence in emission order, its most significant (leftmost) bit
first: a payload byte's bit 7 first (20_memory.md R46), a literal's leftmost bit first (00_scope.md
R8). -/
def bitsMsbFirst {width : Nat} (x : BitVec width) : List Bit :=
  (List.range width).map fun i => x.getLsbD (width - 1 - i)

/-- `unpack(bytes)` (41_line_framer.md R100): the payload bits of a line, byte after byte in arrival
order (20_memory.md R47), each most significant bit first. -/
def unpack (bytes : List Byte) : List Bit := bytes.flatMap bitsMsbFirst

end Sys2Proof.Machine
end

