-- ==== Sys2Proof/Machine/Framer.lean ====
section
/-! DEFINITION. The line framer (41_line_framer.md): the step-code table, `frame` and the advance of the
step cursor. -/

namespace Sys2Proof.Machine

/-- `STEP[cursor]`, an entry of the step-code table in emission order (00_scope.md R9). -/
def stepEntry (cfg : Config) (cursor : Fin 2) : List Bit :=
  bitsMsbFirst (if cursor = 0 then cfg.step0 else cfg.step1)

/-- `frame(cursor, w)` (R102): preamble, step code, whitened payload, postamble. -/
def frame (cfg : Config) (cursor : Fin 2) (w : List Bit) : List Bit :=
  bitsMsbFirst cfg.pre ++ stepEntry cfg cursor ++ w ++ bitsMsbFirst cfg.post

/-- `(CURSOR + 1) mod 2` (R104). Addition on `Fin 2` is addition modulo 2. -/
def advanceCursor (cursor : Fin 2) : Fin 2 := cursor + 1

end Sys2Proof.Machine
end

