-- ==== Sys2Proof/Decode.lean ====
section
/-! DEFINITION. The decoder of 30_encoding.md R66, the encoder written from the patterns of R62 and
R63, and the serialised form of a command word (20_memory.md R48). -/

namespace Sys2Proof

/-! ## Command words -/

/-- The opcode field `OP`, bits 31:28 of every format (R61). -/
def opField (w : Word) : BitVec 4 := w.extractLsb' 28 4

/-- The reserved field of format `G`, bits 27:24 (R62). -/
def rsvFieldG (w : Word) : BitVec 4 := w.extractLsb' 24 4

/-- The field `BWF`, bits 23:12 (R62, R64). -/
def bwField (w : Word) : BitVec 12 := w.extractLsb' 12 12

/-- The field `LHF`, bits 11:0 (R62, R64). -/
def lhField (w : Word) : BitVec 12 := w.extractLsb' 0 12

/-- The reserved field of format `N`, bits 27:16 (R63). -/
def rsvFieldN (w : Word) : BitVec 12 := w.extractLsb' 16 12

/-- The field `NBF`, bits 15:0 (R63, R64). -/
def nbField (w : Word) : BitVec 16 := w.extractLsb' 0 16

/-- `decode(w)` of R66: total, with every word that neither row matches an ILLEGAL command. -/
def decode (w : Word) : Instr :=
  if opField w = 0b0001#4 ∧ rsvFieldG w = 0#4 then .init (bwField w) (lhField w)
  else if opField w = 0b0010#4 ∧ rsvFieldN w = 0#12 then .encodeLine (nbField w)
  else .illegal w

/-- The word of a command: the pattern `0001 0000 b…b h…h` of R62, the pattern
`0010 0000 0000 0000 n…n` of R63, and an illegal word as it stands (`.word`, R68). -/
def encode : Instr → Word
  | .init bw lh => 0b0001#4 ++ 0#4 ++ bw ++ lh
  | .encodeLine n => 0b0010#4 ++ 0#12 ++ n
  | .illegal w => w

/-! ## Command words as bytes -/

/-- Why a serialised command could not be read. -/
inductive DecodeError where
  /-- Fewer than the four bytes of one command word are left (R48, R60). -/
  | truncatedWord
deriving DecidableEq, Repr

/-- The four bytes of a command word, most significant byte first (20_memory.md R48). -/
def wordBytes (w : Word) : List Byte :=
  [w.extractLsb' 24 8, w.extractLsb' 16 8, w.extractLsb' 8 8, w.extractLsb' 0 8]

/-- The first command of a byte listing and the bytes after it; each word stands most significant byte
first (20_memory.md R48). Total on any bytes, rejecting a shortfall by name. -/
def decodeBytes : List Byte → Except DecodeError (Instr × List Byte)
  | b3 :: b2 :: b1 :: b0 :: rest => .ok (decode (b3 ++ b2 ++ b1 ++ b0), rest)
  | _ => .error .truncatedWord

/-- The command word whose bits are `w`, of which the opcode table gives the low `nbits`; the bits
above are 0 (R60: one length, 32 bits). -/
def tableWord (nbits w : Nat) : Word := BitVec.ofNat 32 (w % 2 ^ nbits)

/-- The command that the decoder reads from the word whose bits are `w`, numbered as
spec/opcode_table.json numbers them. No word is refused: R66 decodes every one. -/
def decodeTableWord (nbits w : Nat) : Option Instr := some (decode (tableWord nbits w))

end Sys2Proof
end

