-- ==== Sys2Proof/Machine/Flags.lean ====
section
/-! DEFINITION. The status elements: the error codes of 60_exceptions.md R201 and the `STATUS` word of
10_state.md R27. The block has no arithmetic flags (R29). -/

namespace Sys2Proof.Machine

/-- The error kinds of 60_exceptions.md R201. -/
inductive ErrorKind where
  /-- Raised by INIT with a zero field and by ENCODE_LINE before a successful INIT (R206, R208). -/
  | configurationError
  /-- Raised by a word that decodes as ILLEGAL (R207). -/
  | illegalCommand
  /-- Never raised by the block: reserved for the source's RangeError (R209). -/
  | rangeError
  /-- Never raised by the block: reserved for the source's ShapeError (R210). -/
  | shapeError
deriving DecidableEq, Repr

/-- The value of `ERR_CODE` while no error has been recorded: NONE (R201). -/
def noError : BitVec 3 := 0#3

/-- The code of an error kind in `ERR_CODE` (R201). -/
def errorCode : ErrorKind → BitVec 3
  | .configurationError => 1#3
  | .illegalCommand => 2#3
  | .rangeError => 3#3
  | .shapeError => 4#3

/-- `IDLE`: "the command queue is empty, so every command the host has offered has completed", computed
from the queue and not stored (10_state.md R27, 20_memory.md R45). -/
def idle (s : State) : Bool := s.cmd.isEmpty

/-- The `STATUS` word (10_state.md R27): `CONFIGURED` in bit 0, `FAULT` in bit 1, `ERR_CODE` in bits
4:2, `IDLE` in bit 5. Bits 31:6 are reserved and read as 0 (R27, 93 I6; log 6). -/
def statusWord (s : State) : Word :=
  0#26 ++ BitVec.ofBool (idle s) ++ s.errCode ++ BitVec.ofBool s.fault ++ BitVec.ofBool s.configured

end Sys2Proof.Machine
end

