-- ==== Sys2Proof/Machine/Ops.lean ====
section
/-! DEFINITION. The named operations over the ports and the status elements: the port primitives of
20_memory.md R41 to R43, the conditions under which a command holds (R53), entering the fault state
(60_exceptions.md R203, the block's only "trap") and leaving it (R213, its only "trap return"). -/

namespace Sys2Proof.Machine

/-! ## Ports -/

/-- The command that the next step performs: the oldest word of `CMD`, decoded; none while the queue is
empty (20_memory.md R41, 30_encoding.md R66). -/
def nextCommand (s : State) : Option Instr := s.cmd.head?.map decode

/-- `InCmd()` as a state change: the oldest word leaves the `CMD` queue (20_memory.md R41). -/
def takeCommand (s : State) : State := { s with cmd := s.cmd.tail }

/-- The next `n` bytes of the `PAYLOAD` queue, in arrival order (20_memory.md R42, R47). -/
def lineBytes (n : BitVec 16) (s : State) : List Byte := s.payload.take n.toNat

/-- `n` times `InByte()` as a state change: the `n` oldest bytes leave the `PAYLOAD` queue and the bytes
beyond those stay queued (20_memory.md R42). -/
def takeBytes (n : BitVec 16) (s : State) : State := { s with payload := s.payload.drop n.toNat }

/-- `EmitTile(T)`: one tile is appended, whole, to the `PIXEL` output (20_memory.md R43). -/
def emitTile (t : Tile) (s : State) : State := { s with pixel := s.pixel ++ [t] }

/-! ## When a command has a step -/

/-- An ENCODE_LINE is encoded, not rejected: the block is configured and not in the fault state
(45_commands.md R140, R143). -/
def encodes (s : State) : Bool := s.configured && !s.fault

/-- An ENCODE_LINE has a step: its `n` bytes are queued and, where it emits a tile, the consumer accepts
it. Otherwise it holds (20_memory.md R53, 45_commands.md R140, 93_implementation_defined.md I8). A
rejected ENCODE_LINE emits nothing, so it waits for its bytes only (log 17). -/
def lineReady (n : BitVec 16) (s : State) : Bool :=
  decide (n.toNat ≤ s.payload.length) && (!encodes s || s.pixelAccept)

/-- A command has a step (45_commands.md R140): only ENCODE_LINE ever holds. -/
def ready (i : Instr) (s : State) : Bool :=
  match i with
  | .init _ _ => true
  | .encodeLine n => lineReady n s
  | .illegal _ => true

/-- The block has a step: a word is queued and its command is ready (45_commands.md R140). -/
def enabled (s : State) : Bool := (nextCommand s).any fun i => ready i s

/-! ## The fault state -/

/-- `error(code)` (60_exceptions.md R203): the first error since the last successful INIT or reset sets
`FAULT` and records its code; a later one changes nothing (R214). -/
def raiseError (kind : ErrorKind) (s : State) : State :=
  if s.fault then s else { s with fault := true, errCode := errorCode kind }

/-- Leaving the fault state, as a successful INIT does: `FAULT` and `ERR_CODE` are cleared
(60_exceptions.md R213). -/
def clearError (s : State) : State := { s with fault := false, errCode := noError }

end Sys2Proof.Machine
end

