-- ==== Sys2Proof/Machine/Rasterizer.lean ====
section
/-! DEFINITION. The rasterizer (42_rasterizer.md R120) and the order of a tile's pixels on the `PIXEL`
port (20_memory.md R44). -/

namespace Sys2Proof.Machine

/-- The one row pattern of a tile: every framed bit repeated `bw` times (R120). -/
def rasterRow (f : List Bit) (bw : Nat) : List Bit := f.flatMap (List.replicate bw)

/-- `rasterize(f, bw, lh)` (R120): `lh` equal rows of `len(f) · bw` columns. -/
def rasterize (f : List Bit) (bw lh : Nat) : Tile where
  height := lh
  width := f.length * bw
  rows := List.replicate lh (rasterRow f bw)

/-- `T[r][c]`, where the tile has such a pixel (00_scope.md R15). -/
def Tile.pixelAt (t : Tile) (r c : Nat) : Option Bit := t.rows[r]? >>= fun row => row[c]?

/-- The pixels of a tile in the order in which the `PIXEL` port delivers them: row-major
(20_memory.md R44, decision D12; log 11). -/
def Tile.wire (t : Tile) : List Bit := t.rows.flatten

end Sys2Proof.Machine
end

