-- ==== Sys2Proof/Machine/Whitener.lean ====
section
/-! DEFINITION. The deterministic whitener: the pure functions `lcg_next` and `whiten` of
40_whitener.md. Seeds are unbounded natural numbers here, so that every product is exact (00_scope.md
R13, R14). -/

namespace Sys2Proof.Machine

/-- `lcg_next(s)` (R80): one exact step of the linear-congruential generator. -/
def lcgNext (cfg : Config) (s : Nat) : Nat := (cfg.lcgA * s + cfg.lcgC) % cfg.lcgM

/-- The whitening bit of a step, the low bit of the NEW seed (R81). -/
def whiteningBit (newSeed : Nat) : Bit := newSeed % 2 == 1

/-- `whiten(s, p)` (R83): the generator advances once per payload bit, first bit first, and each bit is
XORed with the whitening bit of its step (R82). The result is the final seed and the whitened bits. -/
def whiten (cfg : Config) (s : Nat) : List Bit → Nat × List Bit
  | [] => (s, [])
  | b :: p =>
    let rest := whiten cfg (lcgNext cfg s) p
    (rest.1, Bool.xor b (whiteningBit (lcgNext cfg s)) :: rest.2)

end Sys2Proof.Machine
end

