-- ==== Sys2Proof/Machine/EncodeLine.lean ====
section
/-! DEFINITION. The meaning of ENCODE_LINE (45_commands.md R143). -/

namespace Sys2Proof.Machine

/-- The whitening of a line's payload bytes from the current `SEED` (R143, 41_line_framer.md R101): the
final seed and the whitened payload bits. -/
def whitenLine (cfg : Config) (bytes : List Byte) (s : State) : Nat × List Bit :=
  whiten cfg s.seed.toNat (unpack bytes)

/-- The framed line of the payload bytes, with the current `SEED` and `CURSOR` (R143). -/
def framedLine (cfg : Config) (bytes : List Byte) (s : State) : List Bit :=
  frame cfg s.cursor (whitenLine cfg bytes s).2

/-- The tile of the payload bytes, with the current `SEED`, `CURSOR`, `BW` and `LH` (R143). -/
def lineTile (cfg : Config) (bytes : List Byte) (s : State) : Tile :=
  rasterize (framedLine cfg bytes s) s.bw.toNat s.lh.toNat

/-- `exec_encode(bytes)` (R143): the tile is emitted, `SEED` takes the final seed and `CURSOR`
advances, all together (R146). -/
def completeLine (cfg : Config) (bytes : List Byte) (s : State) : State :=
  { emitTile (lineTile cfg bytes s) s with
    seed := BitVec.ofNat 32 (whitenLine cfg bytes s).1
    cursor := advanceCursor s.cursor }

/-- What an ENCODE_LINE that has a step does after its word and its bytes are taken (R140): discarded in
the fault state, CONFIGURATION_ERROR before a successful INIT (60_exceptions.md R208), and otherwise
encoded. The priority is that of R211. -/
def performLine (cfg : Config) (bytes : List Byte) (s : State) : State :=
  if s.fault then s
  else if s.configured then completeLine cfg bytes s
  else raiseError .configurationError s

/-- ENCODE_LINE for any constants: the word and its `n` bytes are taken in every case and the line is
performed (R140); until it has a step the command holds and nothing changes, "the command word stays
at the head of `CMD`" (20_memory.md R53; log 3). -/
def execEncodeLineWith (cfg : Config) (n : BitVec 16) (s : State) :
    Host.Outcome State Fault Refusal :=
  if lineReady n s then .next (performLine cfg (lineBytes n s) (takeBytes n (takeCommand s)))
  else .next s

/-- ENCODE_LINE with the constants of 10_state.md R30. -/
def execEncodeLine (n : BitVec 16) (s : State) : Host.Outcome State Fault Refusal :=
  execEncodeLineWith Config.reference n s

end Sys2Proof.Machine
end

