-- ==== Sys2Proof/Machine/Illegal.lean ====
section
/-! DEFINITION. The meaning of an illegal command word (60_exceptions.md R207). -/

namespace Sys2Proof.Machine

/-- ILLEGAL (R207): the word is taken and `error(ILLEGAL_COMMAND)` is performed; "no payload byte is
taken, because an illegal word has no count". Which illegal word it was is not recorded (R202). -/
def execIllegal (_w : Word) (s : State) : Host.Outcome State Fault Refusal :=
  .next (raiseError .illegalCommand (takeCommand s))

end Sys2Proof.Machine
end

