-- ==== Sys2Proof/Machine/Init.lean ====
section
/-! DEFINITION. The meaning of INIT (45_commands.md R141). -/

namespace Sys2Proof.Machine

/-- What a successful INIT stores (R141): the geometry, a fresh stream (`SEED0`, cursor 0),
`CONFIGURED`, and the fault state left (60_exceptions.md R213). -/
def construct (cfg : Config) (bw lh : BitVec 12) (s : State) : State :=
  clearError { s with bw := bw, lh := lh, seed := cfg.seed0, cursor := 0, configured := true }

/-- What an INIT with degenerate geometry does (60_exceptions.md R206): `CONFIGURED <- 0`, then
`error(CONFIGURATION_ERROR)`; `BW`, `LH`, `SEED` and `CURSOR` keep their values. -/
def failConstruction (s : State) : State :=
  raiseError .configurationError { s with configured := false }

/-- INIT for any constants: the word is taken (45_commands.md R140) and `exec_init` performed (R141).
It is performed in the fault state too (60_exceptions.md R212) and takes no payload byte. -/
def execInitWith (cfg : Config) (bw lh : BitVec 12) (s : State) :
    Host.Outcome State Fault Refusal :=
  if legalGeometry bw lh then .next (construct cfg bw lh (takeCommand s))
  else .next (failConstruction (takeCommand s))

/-- INIT with the constants of 10_state.md R30. -/
def execInit (bw lh : BitVec 12) (s : State) : Host.Outcome State Fault Refusal :=
  execInitWith Config.reference bw lh s

end Sys2Proof.Machine
end

