-- ==== Sys2Proof/Machine/Dispatch.lean ====
section
/-! DEFINITION. The dispatch from a decoded command to its meaning (45_commands.md R140). -/

namespace Sys2Proof.Machine

def exec (i : Instr) (s : State) : Host.Outcome State Fault Refusal :=
  match i with
  | .init bw lh => Sys2Proof.Machine.execInit bw lh s
  | .encodeLine n => Sys2Proof.Machine.execEncodeLine n s
  | .illegal w => Sys2Proof.Machine.execIllegal w s

end Sys2Proof.Machine
end

