-- ==== Sys2Proof/Machine/Fetch.lean ====
section
/-! DEFINITION. Placing a command word at the head of `CMD`, as a host that offers it to an otherwise
empty queue does (20_memory.md R40, R41; log 5). -/

namespace Sys2Proof.Machine

/-- How many payload bytes a command takes (45_commands.md R140): the count of ENCODE_LINE, none for the
others. -/
def bytesNeeded : Instr → Nat
  | .init _ _ => 0
  | .encodeLine n => n.toNat
  | .illegal _ => 0

/-- The payload queue followed by as many zero bytes as make it `n` bytes long, if it is shorter. -/
def padPayload : Nat → List Byte → List Byte
  | 0, queue => queue
  | n + 1, [] => 0#8 :: padPayload n []
  | n + 1, b :: queue => b :: padPayload n queue

/-- The word at the head of `CMD`, with payload bytes enough for its command (R53: "the whole
ENCODE_LINE step is enabled only when `NBYTES` bytes are queued"). -/
def placeCommand (w : Word) (s : State) : State :=
  { s with
    cmd := w :: s.cmd
    payload := padPayload (bytesNeeded (decode w)) s.payload }

end Sys2Proof.Machine
end

