-- ==== Sys2Proof/Machine/Step.lean ====
section
/-! DEFINITION. The step of the block (45_commands.md R140) and the placing of one command word where
the step takes its next command. -/

namespace Sys2Proof.Machine

/-- One step (45_commands.md R140): the oldest word of `CMD` is decoded and performed. While the queue
is empty "the block has no step and is idle", which is a step that changes nothing (log 3). -/
def step (s : State) : Host.Outcome State Fault Refusal :=
  match nextCommand s with
  | none => .next s
  | some i => exec i s

/-- `s` with the command word at the head of `CMD`, and with the `PAYLOAD` queue long enough that the
command has its step: the next step takes and performs exactly this word (log 5). -/
def State.withFetchWord (s : State) (nbits w : Nat) : State := placeCommand (tableWord nbits w) s

end Sys2Proof.Machine
end

