-- ==== Sys2Proof/Machine/Assembler.lean ====
section
/-! DEFINITION. The command syntax of 30_encoding.md R68 and the pseudo-instruction of R69: statements,
their words and payload bytes, and the reading of a program's text. What R68 leaves open of the text
is fixed by DESIGN CHOICE (log 12). -/

namespace Sys2Proof.Machine

/-! ## Statements -/

/-- One line of a program, its operands as written (R68, R69). -/
inductive AsmStmt where
  /-- `INIT <block_width>, <line_height>`. -/
  | init (bw lh : Nat)
  /-- `ENCODE_LINE <nbytes>`. -/
  | encodeLine (n : Nat)
  /-- `.word <32-bit value>`: any raw command word, legal or not. -/
  | word (value : Nat)
  /-- `PAYLOAD <b0>, <b1>, …`: the host directive, which emits no command word. -/
  | payload (bytes : List Nat)
  /-- `LINE <b0>, …`: the one pseudo-instruction (R69). -/
  | line (bytes : List Nat)
deriving DecidableEq, Repr

/-- Why a program could not be assembled. -/
inductive AsmError where
  /-- "An operand outside its field's range is an assembler error, not a word" (R68). -/
  | operandRange
  /-- The line is not of the form of R68. -/
  | malformedLine
  /-- The first word of the line is no mnemonic of R68 or R69. -/
  | unknownMnemonic
deriving DecidableEq, Repr

/-- What a program gives the host to send: command words for `CMD` and bytes for `PAYLOAD`. -/
abbrev Program := List Word × List Byte

/-- A value in a field of `width` bits, or the assembler error of R68. -/
def asmField (width value : Nat) : Except AsmError (BitVec width) :=
  if value < 2 ^ width then .ok (BitVec.ofNat width value) else .error .operandRange

/-- The bytes of a `PAYLOAD` directive, each in its 8 bits (R68). -/
def asmBytes : List Nat → Except AsmError (List Byte)
  | [] => .ok []
  | b :: rest => do
    let first ← asmField 8 b
    let others ← asmBytes rest
    return first :: others

/-- The words and payload bytes of one statement (R68). `LINE b0, …` "expands to `ENCODE_LINE n`
followed by `PAYLOAD b0, …`" (R69). -/
def assembleStmt : AsmStmt → Except AsmError Program
  | .init bw lh => do
    let b ← asmField 12 bw
    let h ← asmField 12 lh
    return ([encode (.init b h)], [])
  | .encodeLine n => do
    let count ← asmField 16 n
    return ([encode (.encodeLine count)], [])
  | .word value => do
    let w ← asmField 32 value
    return ([w], [])
  | .payload bytes => do
    let queued ← asmBytes bytes
    return ([], queued)
  | .line bytes => do
    let count ← asmField 16 bytes.length
    let queued ← asmBytes bytes
    return ([encode (.encodeLine count)], queued)

/-- The words and payload bytes of a program, in the order written (R68). -/
def assemble : List AsmStmt → Except AsmError Program
  | [] => .ok ([], [])
  | stmt :: rest => do
    let first ← assembleStmt stmt
    let others ← assemble rest
    return (first.1 ++ others.1, first.2 ++ others.2)

/-- The byte listing of command words, each most significant byte first (20_memory.md R48). -/
def programBytes (words : List Word) : List Byte := words.flatMap wordBytes

/-! ## Text -/

/-- A piece of a source line: a run of characters, or the comma between operands. -/
inductive AsmToken where
  /-- A mnemonic or a number. -/
  | text (chars : List Char)
  /-- `,`. -/
  | comma
deriving DecidableEq, Repr

/-- The run of characters collected so far, last character first, as a token if there is one. -/
def flushToken (run : List Char) : List AsmToken :=
  if run.isEmpty then [] else [.text run.reverse]

/-- The tokens of a line's characters, with the run collected so far. Blanks separate runs, and `;`
starts a comment (R68). -/
def tokenize (run : List Char) : List Char → List AsmToken
  | [] => flushToken run
  | c :: rest =>
    if c = ';' then flushToken run
    else if c = ',' then flushToken run ++ .comma :: tokenize [] rest
    else if c = ' ' ∨ c = '\t' ∨ c = '\r' then flushToken run ++ tokenize [] rest
    else tokenize (c :: run) rest

/-- The value of a digit in a base, if the character is one. -/
def digitValue (base : Nat) (c : Char) : Option Nat :=
  let value :=
    if '0' ≤ c ∧ c ≤ '9' then some (c.toNat - '0'.toNat)
    else if 'a' ≤ c ∧ c ≤ 'f' then some (c.toNat - 'a'.toNat + 10)
    else if 'A' ≤ c ∧ c ≤ 'F' then some (c.toNat - 'A'.toNat + 10)
    else none
  value.filter (· < base)

/-- The number that digits go on from a value, if every character is a digit of the base. -/
def digitsValue (base value : Nat) : List Char → Option Nat
  | [] => some value
  | c :: rest => (digitValue base c).bind fun d => digitsValue base (value * base + d) rest

/-- A number of R68: "decimal or `0x` hexadecimal". -/
def numberValue : List Char → Option Nat
  | [] => none
  | '0' :: 'x' :: c :: rest => digitsValue 16 0 (c :: rest)
  | c :: rest => digitsValue 10 0 (c :: rest)

/-- The operands of a line: numbers with one comma between each two, or nothing. -/
def parseOperands : List AsmToken → Option (List Nat)
  | [] => some []
  | [.text chars] => (numberValue chars).map fun v => [v]
  | .text chars :: .comma :: rest =>
    if rest.isEmpty then none
    else (numberValue chars).bind fun v => (parseOperands rest).map fun vs => v :: vs
  | _ => none

/-- A statement from its mnemonic, in capitals, and its operands (R68, R69). -/
def parseStmt (mnemonic : List Char) (operands : List Nat) : Except AsmError AsmStmt :=
  if mnemonic = ['I', 'N', 'I', 'T'] then
    match operands with
    | [bw, lh] => .ok (.init bw lh)
    | _ => .error .malformedLine
  else if mnemonic = ['E', 'N', 'C', 'O', 'D', 'E', '_', 'L', 'I', 'N', 'E'] then
    match operands with
    | [n] => .ok (.encodeLine n)
    | _ => .error .malformedLine
  else if mnemonic = ['.', 'W', 'O', 'R', 'D'] then
    match operands with
    | [value] => .ok (.word value)
    | _ => .error .malformedLine
  else if mnemonic = ['P', 'A', 'Y', 'L', 'O', 'A', 'D'] then .ok (.payload operands)
  else if mnemonic = ['L', 'I', 'N', 'E'] then .ok (.line operands)
  else .error .unknownMnemonic

/-- The statement of one source line, if it holds one: "one command per line, case-insensitive
mnemonics" (R68). -/
def parseLine (chars : List Char) : Except AsmError (Option AsmStmt) :=
  match tokenize [] chars with
  | [] => .ok none
  | .comma :: _ => .error .malformedLine
  | .text mnemonic :: rest =>
    match parseOperands rest with
    | none => .error .malformedLine
    | some operands => (parseStmt (mnemonic.map Char.toUpper) operands).map some

/-- The lines of a text, with the part of the current line already read, last character first. -/
def sourceLines (current : List Char) : List Char → List (List Char)
  | [] => [current.reverse]
  | c :: rest =>
    if c = '\n' then current.reverse :: sourceLines [] rest else sourceLines (c :: current) rest

/-- The statements of source lines, in order. -/
def parseLines : List (List Char) → Except AsmError (List AsmStmt)
  | [] => .ok []
  | chars :: rest => do
    let stmt ← parseLine chars
    let others ← parseLines rest
    return stmt.toList ++ others

/-- A program's text assembled (R68). -/
def assembleText (text : List Char) : Except AsmError Program :=
  (parseLines (sourceLines [] text)).bind assemble

end Sys2Proof.Machine
end

