-- ==== Sys2Proof/Machine/HostPipeline.lean ====
section
/-! DEFINITION. The host software around the block, as 48_host_pipeline.md describes it: padding,
segmentation, FEC and slicing into lines. The block implements and checks none of it (00_scope.md R5,
R26); it is modelled so that the host's rules can be stated (log 13). -/

namespace Sys2Proof.Machine

/-- The host's own errors (48_host_pipeline.md R178). They never reach the block. -/
inductive HostError where
  /-- Illegal `CodecParameters` (R170). -/
  | configurationError
  /-- A padding count above 255 (R172). -/
  | rangeError
  /-- A message to the FEC capability that is not `k` bytes long (R175). -/
  | shapeError
deriving DecidableEq, Repr

/-- `CodecParameters` (R170). DESIGN CHOICE (log 18): a value may be illegal, and what raises the
ConfigurationError of R170 is every use of it (`withLegal`), not its construction. -/
structure CodecParameters where
  /-- `block_size`, the codeword size `n`. -/
  blockSize : Nat
  /-- `ecc_size`. -/
  eccSize : Nat
deriving DecidableEq, Repr

/-- The message size `k = n − ecc_size` (R170); 0, which is illegal as every `k ≤ 0` is, where
`ecc_size` exceeds `n`. -/
def messageSize (params : CodecParameters) : Nat := params.blockSize - params.eccSize

/-- Legal parameters: `0 < k < n ≤ 255` (R170, 90_conflicts.md C4). -/
def legalParameters (params : CodecParameters) : Bool :=
  decide (0 < messageSize params ∧ messageSize params < params.blockSize ∧ params.blockSize ≤ 255)

/-- A use of parameters: "Illegal parameters raise ConfigurationError in the host" (R170), before
anything else is done with them (DESIGN CHOICE, log 18), and legal ones let the use go on. -/
def withLegal {α : Type} (params : CodecParameters) (use : Except HostError α) :
    Except HostError α :=
  if legalParameters params then use else .error .configurationError

/-- `needed_padding(current_size, block_size)` (R171): in `[1, block_size]`, never 0. -/
def neededPadding (currentSize blockSize : Nat) : Nat := blockSize - currentSize % blockSize

/-- `pad(count)` (R172, 90_conflicts.md C2): `count − 1` zero bytes and one byte of value `count`;
nothing for 0; a RangeError above 255. -/
def pad (count : Nat) : Except HostError (List Byte) :=
  if count = 0 then .ok []
  else if count ≤ 255 then .ok (List.replicate (count - 1) 0#8 ++ [BitVec.ofNat 8 count])
  else .error .rangeError

/-- At most `fuel` consecutive chunks of `size` bytes, the last perhaps shorter. -/
def chunksUpTo (size : Nat) : Nat → List Byte → List (List Byte)
  | 0, _ => []
  | _ + 1, [] => []
  | fuel + 1, b :: bytes =>
    (b :: bytes).take size :: chunksUpTo size fuel ((b :: bytes).drop size)

/-- The bytes in consecutive chunks of `size ≥ 1` bytes, the last perhaps shorter (R174, R176). -/
def chunks (size : Nat) (bytes : List Byte) : List (List Byte) := chunksUpTo size bytes.length bytes

/-- The FEC capability (R175): exactly `n` bytes for a message of exactly `k` bytes, and a ShapeError
for another length. It rejects illegal parameters: `k ≥ n` (R170, 90_conflicts.md C4), `n > 255` (R175:
"field size 256, so `n ≤ 255`") and `k ≤ 0` (R170). Which bytes a codeword holds is open (N5;
`Config.fecEncode` has no body). -/
def fecEncode (params : CodecParameters) (message : List Byte) : Except HostError (List Byte) :=
  withLegal params <|
    if message.length = messageSize params then
      .ok (Config.fecEncode params.blockSize (messageSize params) message).toList
    else .error .shapeError

/-- The codewords of messages, in chunk order (R174). -/
def codewordsOf (params : CodecParameters) : List (List Byte) → Except HostError (List (List Byte))
  | [] => .ok []
  | message :: rest => do
    let codeword ← fecEncode params message
    let others ← codewordsOf params rest
    return codeword :: others

/-- The input with its padding, computed against the message size `k` of legal parameters (R170, R173,
R174). -/
def paddedInput (params : CodecParameters) (input : List Byte) : Except HostError (List Byte) :=
  withLegal params <|
    (pad (neededPadding input.length (messageSize params))).map fun padding => input ++ padding

/-- Segmentation (R174): the padded input is split into `k`-byte chunks and each is encoded into one
codeword. Illegal parameters are refused (R170), already by the padding, which is their first use. -/
def segmentInput (params : CodecParameters) (input : List Byte) : Except HostError (List (List Byte)) :=
  (paddedInput params input).bind fun padded =>
    codewordsOf params (chunks (messageSize params) padded)

/-- The lines of a codeword stream (R176): the flattened bytes in chunks of the host's
`BYTES_PER_LINE`, the last perhaps shorter (decision D26). -/
def sliceLines (bytesPerLine : Nat) (codewords : List (List Byte)) : List (List Byte) :=
  chunks bytesPerLine codewords.flatten

/-- The block commands for lines of bytes (R177, R179): `INIT bw, lh`, then for each line its
ENCODE_LINE and its payload. -/
def hostProgram (bw lh : Nat) (lines : List (List Byte)) : List AsmStmt :=
  .init bw lh :: lines.map fun bytes => .line (bytes.map BitVec.toNat)

end Sys2Proof.Machine
end

