-- ==== Sys2Proof/Machine/Parametric.lean ====
section
/-! DEFINITION. The block for any constants. 10_state.md R30: "a model treats them as configuration of
the model (its arguments), not as state"; 00_scope.md R9: "A model takes `STEP1` as an argument". The
machine that the host runs (`exec`, `step`) is this one at `Config.reference` (log 1). -/

namespace Sys2Proof.Machine

/-- The meaning of a command for any constants (45_commands.md R140). -/
def execWith (cfg : Config) (i : Instr) (s : State) : Host.Outcome State Fault Refusal :=
  match i with
  | .init bw lh => execInitWith cfg bw lh s
  | .encodeLine n => execEncodeLineWith cfg n s
  | .illegal w => execIllegal w s

/-- The step of the block for any constants (45_commands.md R140). -/
def stepWith (cfg : Config) (s : State) : Host.Outcome State Fault Refusal :=
  match nextCommand s with
  | none => .next s
  | some i => execWith cfg i s

end Sys2Proof.Machine
end

