-- ==== Sys2Proof/Machine/Environment.lean ====
section
/-! DEFINITION. What the outside world can do to the block: the host's moves of 48_host_pipeline.md R177
and the hardware reset of 70_reset_and_hazards.md R240. Each lands between two steps (log 15). -/

namespace Sys2Proof.Machine

/-- A move of the host (48_host_pipeline.md R177). -/
inductive HostAction where
  /-- Offer a command word on `CMD` (20_memory.md R40). -/
  | offer (w : Word)
  /-- Supply payload bytes on `PAYLOAD`, in order (20_memory.md R40). -/
  | supply (bytes : List Byte)
  /-- Start or stop accepting tiles on `PIXEL` (20_memory.md R53). -/
  | setAccept (accepts : Bool)
  /-- Read `STATUS` (20_memory.md R45). -/
  | readStatus
  /-- Assert hardware reset (70_reset_and_hazards.md R240). -/
  | hardwareReset
deriving DecidableEq, Repr

/-- Hardware reset of a running block (R240): every element of 10_state.md R20 takes its reset value and
both input queues are emptied, "abandoning a command whose step had not happened; tiles already
emitted stay with the host". The consumer's readiness is the environment's and does not change. -/
def hardwareReset (s : State) : State :=
  { State.reset with pixel := s.pixel, pixelAccept := s.pixelAccept }

/-- What reading the `STATUS` port gives (20_memory.md R45): the status word, and a state in which
nothing has changed. -/
def readStatus (s : State) : Word × State := (statusWord s, s)

/-- The state after a move of the host. -/
def hostAct (a : HostAction) (s : State) : State :=
  match a with
  | .offer w => { s with cmd := s.cmd ++ [w] }
  | .supply bytes => { s with payload := s.payload ++ bytes }
  | .setAccept accepts => { s with pixelAccept := accepts }
  | .readStatus => (readStatus s).2
  | .hardwareReset => hardwareReset s

/-- The state after a host has offered a whole program: command words and payload bytes. -/
def offerProgram (words : List Word) (bytes : List Byte) (s : State) : State :=
  { s with cmd := s.cmd ++ words, payload := s.payload ++ bytes }

end Sys2Proof.Machine
end

