-- ==== Sys2Proof/Safety.lean ====
section
/-! DEFINITION. What the claims call a good state, a reachable state and the history of a stream. -/

namespace Sys2Proof.Machine

/-! ## Good states -/

/-- "`FAULT = 0` if and only if `ERR_CODE = 0`" (10_state.md R28). -/
abbrev FaultAgrees (s : State) : Prop := s.fault = false ↔ s.errCode = noError

/-- `ERR_CODE` holds NONE, CONFIGURATION_ERROR or ILLEGAL_COMMAND: "A model may treat codes 3 to 7 as
unreachable" (60_exceptions.md R201). -/
abbrev ErrCodeRaised (s : State) : Prop :=
  s.errCode = noError ∨ s.errCode = errorCode .configurationError ∨
    s.errCode = errorCode .illegalCommand

/-- While `CONFIGURED = 1` both geometry registers hold 1 to 4095 (10_state.md R25). -/
abbrev GeometryLegal (s : State) : Prop := s.configured = true → legalGeometry s.bw s.lh = true

/-- `SEED` holds `SEED0` or a value the generator yields, below `LCG_M` (10_state.md R22). -/
abbrev SeedInRange (cfg : Config) (s : State) : Prop :=
  s.seed = cfg.seed0 ∨ s.seed.toNat < cfg.lcgM

/-- A tile event carries as many pixels as its height and width say (20_memory.md R43). -/
abbrev Tile.WellShaped (t : Tile) : Prop :=
  t.rows.length = t.height ∧ ∀ row ∈ t.rows, row.length = t.width

/-- Every emitted tile is whole (20_memory.md R43). -/
abbrev TilesWhole (s : State) : Prop := ∀ t ∈ s.pixel, t.WellShaped

/-- The invariant of the block for given constants: the parts above together. -/
abbrev GoodWith (cfg : Config) (s : State) : Prop :=
  FaultAgrees s ∧ ErrCodeRaised s ∧ GeometryLegal s ∧ SeedInRange cfg s ∧ TilesWhole s

/-- The invariant of the block with the constants of 10_state.md R30. -/
abbrev Good (s : State) : Prop := GoodWith Config.reference s

/-! ## Closed forms and comparisons of states -/

/-- Bit `i` of the framed line of payload bytes, in the closed form of 45_commands.md R143. It is written
from that rule alone and calls no stage of the encoder but `lcg_next`. -/
def closedFormBit (cfg : Config) (cursor : Fin 2) (seed : Nat) (bytes : List Byte) (i : Nat) : Bit :=
  if i < 6 then cfg.pre.getLsbD (5 - i)
  else if i < 8 then (if cursor = 0 then cfg.step0 else cfg.step1).getLsbD (7 - i)
  else if i < 8 + 8 * bytes.length then
    Bool.xor ((bytes.getD ((i - 8) / 8) 0#8).getLsbD (7 - (i - 8) % 8))
      ((lcgNext cfg)^[i - 7] seed % 2 == 1)
  else cfg.post.getLsbD (13 + 8 * bytes.length - i)

/-- The height and the width of a tile, without its pixels. -/
def Tile.shape (t : Tile) : Nat × Nat := (t.height, t.width)

/-- Two states that differ only in data: in the values of the payload bytes still queued, and in the
pixels of the tiles already emitted. -/
def SameButData (s t : State) : Prop :=
  t = { s with payload := t.payload, pixel := t.pixel } ∧
    t.payload.length = s.payload.length ∧ t.pixel.map Tile.shape = s.pixel.map Tile.shape

/-- Two states from which the block does the same from now on: they may differ only in the tiles that
have left it. -/
def SameFuture (s t : State) : Prop := t = { s with pixel := t.pixel }

/-! ## Runs -/

/-- The states that some order of host moves and block steps leads to from reset. -/
inductive Reachable : State → Prop where
  /-- The block after reset. -/
  | reset : Reachable State.reset
  /-- A move of the host between two steps. -/
  | host (a : HostAction) {s : State} (h : Reachable s) : Reachable (hostAct a s)
  /-- A step of the block. -/
  | block {s t : State} (h : Reachable s) (hstep : step s = .next t) : Reachable t

/-- `k` steps of the block for any constants, with no move of the host between them. -/
def runWith (cfg : Config) : Nat → State → Host.Outcome State Fault Refusal
  | 0, s => .next s
  | k + 1, s =>
    match stepWith cfg s with
    | .next t => runWith cfg k t
    | .fault r => .fault r
    | .refused r => .refused r

/-! ## The history of a stream -/

/-- What has been encoded since the last reset or successful INIT: the history on which `SEED` and
`CURSOR` depend (40_whitener.md R85, 41_line_framer.md R105). It is no state of the block (R219). -/
structure StreamHistory where
  /-- Payload bits whitened. -/
  bits : Nat
  /-- Lines completed. -/
  lines : Nat
deriving DecidableEq, Repr

/-- The history after the next step of the block: a successful INIT starts a new stream (10_state.md
R23), a completed ENCODE_LINE adds its line, and no other step changes it. -/
def StreamHistory.after (h : StreamHistory) (s : State) : StreamHistory :=
  match nextCommand s with
  | some (.init bw lh) => if legalGeometry bw lh then ⟨0, 0⟩ else h
  | some (.encodeLine n) =>
    if lineReady n s && encodes s then ⟨h.bits + 8 * n.toNat, h.lines + 1⟩ else h
  | some (.illegal _) => h
  | none => h

/-- `SEED` and `CURSOR` are those of the history: the seed after as many steps of the generator from
`SEED0` as bits were whitened, and the parity of the lines completed. -/
abbrev StreamHistory.Describes (cfg : Config) (h : StreamHistory) (s : State) : Prop :=
  s.seed.toNat = (lcgNext cfg)^[h.bits] cfg.seed0.toNat ∧ s.cursor.val = h.lines % 2

end Sys2Proof.Machine
end

