-- ==== Sys2Proof/WellFormed.lean ====
section
/-! DEFINITION. Which terms of `Instr` stand for a command word: every operand of INIT and of
ENCODE_LINE is encodable (30_encoding.md R64), and an illegal word is one that neither row of the
opcode map matches (R65, R67). -/

namespace Sys2Proof

/-- The word matches the INIT row of the opcode map (R65, R66). -/
def matchesInit (w : Word) : Bool :=
  w &&& 0xFF000000#32 == 0x10000000#32

/-- The word matches the ENCODE_LINE row of the opcode map (R65, R66). -/
def matchesEncodeLine (w : Word) : Bool :=
  w &&& 0xFFFF0000#32 == 0x20000000#32

/-- The command is one that a word decodes to (R66, R67). -/
def Instr.wellFormed : Instr → Bool
  | .init _ _ => true
  | .encodeLine _ => true
  | .illegal w => !matchesInit w && !matchesEncodeLine w

end Sys2Proof
end

