-- ==== Sys2Proof/Certificates/Slice0/Obligations.lean ====
section
/-! DEFINITION. The statements for the provers. -/

open Sys2Proof Sys2Proof.Machine

/-! ## Encoding -/

/-- Decode and encode agree (30_encoding.md R62, R63, R66): every command that a word stands for is read
back from its word, with every operand at every value. -/
def Obligations.DecodeEncodeRoundTrip : Prop :=
  ∀ i : Instr, i.wellFormed = true → decode (encode i) = i

/-- The other direction (R66): every word decodes to a well-formed command, and encoding that command
gives the word back, so no two words decode alike. -/
def Obligations.EncodeDecodeRoundTrip : Prop :=
  ∀ w : Word, (decode w).wellFormed = true ∧ encode (decode w) = w

/-- R66 whole: the result of decoding every word, by the masks and matches of the opcode map. -/
def Obligations.DecodeFollowsOpcodeMap : Prop :=
  ∀ w : Word,
    (∀ bw lh, decode w = .init bw lh ↔
      w &&& 0xFF000000#32 = 0x10000000#32 ∧ bw = w.extractLsb' 12 12 ∧ lh = w.extractLsb' 0 12) ∧
    (∀ n, decode w = .encodeLine n ↔
      w &&& 0xFFFF0000#32 = 0x20000000#32 ∧ n = w.extractLsb' 0 16) ∧
    (∀ v, decode w = .illegal v ↔
      v = w ∧ w &&& 0xFF000000#32 ≠ 0x10000000#32 ∧ w &&& 0xFFFF0000#32 ≠ 0x20000000#32)

/-- R67: which words are illegal, how many words of each kind there are, and that an illegal word is
performed as ILLEGAL_COMMAND. -/
def Obligations.IllegalWordsAndCounts : Prop :=
  (∀ w : Word, decode w = .illegal w ↔
    w.extractLsb' 28 4 = 0#4 ∨ 3 ≤ (w.extractLsb' 28 4).toNat ∨
      (w.extractLsb' 28 4 = 1#4 ∧ w.extractLsb' 24 4 ≠ 0#4) ∨
      (w.extractLsb' 28 4 = 2#4 ∧ w.extractLsb' 16 12 ≠ 0#12)) ∧
  {w : Word | ∃ bw lh, decode w = .init bw lh}.ncard = 2 ^ 24 ∧
  {w : Word | ∃ n, decode w = .encodeLine n}.ncard = 2 ^ 16 ∧
  {w : Word | decode w = .illegal w}.ncard = 2 ^ 32 - 2 ^ 24 - 2 ^ 16 ∧
  ∀ (w : Word) (s : State), decode w = .illegal w →
    exec (decode w) s = .next (raiseError .illegalCommand { s with cmd := s.cmd.tail })

/-- R70: the encoding examples. -/
def Obligations.EncodingExamples : Prop :=
  encode (.init 10 10) = 0x1000A00A#32 ∧ decode 0x1000A00A#32 = .init 10 10 ∧
  encode (.init 1 1) = 0x10001001#32 ∧ decode 0x10001001#32 = .init 1 1 ∧
  encode (.init 4095 4095) = 0x10FFFFFF#32 ∧ decode 0x10FFFFFF#32 = .init 4095 4095 ∧
  encode (.init 0 5) = 0x10000005#32 ∧ decode 0x10000005#32 = .init 0 5 ∧
  encode (.encodeLine 16) = 0x20000010#32 ∧ decode 0x20000010#32 = .encodeLine 16 ∧
  encode (.encodeLine 0) = 0x20000000#32 ∧ decode 0x20000000#32 = .encodeLine 0 ∧
  encode (.encodeLine 65535) = 0x2000FFFF#32 ∧ decode 0x2000FFFF#32 = .encodeLine 65535 ∧
  decode 0x00000000#32 = .illegal 0x00000000#32 ∧ decode 0x30000000#32 = .illegal 0x30000000#32 ∧
  decode 0x11000000#32 = .illegal 0x11000000#32 ∧ decode 0x20010000#32 = .illegal 0x20010000#32

/-- 20_memory.md R48: a command word listed as bytes, most significant byte first, is read back as its
command with the bytes after it. That fewer than four bytes are refused as `truncatedWord` is the
model's choice (log 14, DESIGN CHOICE): R48 gives the byte order only. -/
def Obligations.CommandBytesReadBack : Prop :=
  (∀ (w : Word) (rest : List Byte), decodeBytes (wordBytes w ++ rest) = .ok (decode w, rest)) ∧
  ∀ bytes : List Byte, bytes.length < 4 → decodeBytes bytes = .error .truncatedWord

/-! ## The step -/

/-- 45_commands.md R140: a step runs the decoded command. The oldest word of `CMD` is decoded and
performed, and every well-formed command reaches its meaning so; `exec` itself takes the word. With an
empty queue the block is idle, which the model shows as a step that changes nothing (log 3). -/
def Obligations.StepRunsDecodedCommand : Prop :=
  (∀ (s : State) (w : Word) (rest : List Word), s.cmd = w :: rest → step s = exec (decode w) s) ∧
  (∀ (s : State) (i : Instr) (rest : List Word), i.wellFormed = true → s.cmd = encode i :: rest →
    step s = exec i s) ∧
  ∀ s : State, s.cmd = [] → step s = .next s

/-- 10_state.md R30, 00_scope.md R9: the machine is the parametric block at the spec's constants, with
`STEP1` at its default `10` (log 1). -/
def Obligations.MachineIsParametricBlock : Prop :=
  (∀ (i : Instr) (s : State), exec i s = execWith (Config.withStep1 0b10#2) i s) ∧
  ∀ s : State, step s = stepWith (Config.withStep1 0b10#2) s

/-- No step ends in a fault or a refusal: every error of 60_exceptions.md R203 is a next state. That an
idle block and a held one, for which the spec has no step (20_memory.md R41, R53), also answer a next
state, the unchanged one, is the model's choice (log 3, DESIGN CHOICE). -/
def Obligations.EveryStepHasNextState : Prop :=
  ∀ s : State, ∃ t, step s = .next t

/-- 45_commands.md R140: where a step is enabled, one word is taken; where it is not (idle, or held by
20_memory.md R53) nothing changes, which is the model's form of "no step" (log 3). -/
def Obligations.EnabledStepTakesItsWord : Prop :=
  ∀ s : State,
    (enabled s = true → ∃ w t, s.cmd = w :: t.cmd ∧ step s = .next t) ∧
    (enabled s = false → step s = .next s)

/-- 20_memory.md R41, R42, R43, R51: a step that is not idle or held takes exactly the oldest word,
exactly the bytes of its command from the front of `PAYLOAD`, and appends at most one tile. Two parts
are the model's choice and no rule's: that an idle or held block answers the same state, `t = s` (log 3,
DESIGN CHOICE), and that no command writes the consumer's readiness, the model's own field `pixelAccept`
(log 4, DESIGN CHOICE). -/
def Obligations.StepIsAtomicOnQueues : Prop :=
  ∀ s t : State, step s = .next t →
    t = s ∨ ∃ w rest tiles, s.cmd = w :: rest ∧ t.cmd = rest ∧
      bytesNeeded (decode w) ≤ s.payload.length ∧
      t.payload = s.payload.drop (bytesNeeded (decode w)) ∧
      t.pixel = s.pixel ++ tiles ∧ tiles.length ≤ 1 ∧ t.pixelAccept = s.pixelAccept

/-! ## INIT -/

/-- R141 whole: INIT answers a next state in every state. With both fields nonzero it stores the
geometry, restarts the stream and leaves the fault state; otherwise it clears `CONFIGURED` and raises
CONFIGURATION_ERROR, recorded only if `FAULT` was 0. Everything not named is unchanged. -/
def Obligations.InitResult : Prop :=
  ∀ (bw lh : BitVec 12) (s : State),
    (bw ≠ 0#12 ∧ lh ≠ 0#12 →
      exec (.init bw lh) s = .next
        { s with
          cmd := s.cmd.tail, bw := bw, lh := lh, seed := 0xDEADBEEF#32, cursor := 0
          configured := true, fault := false, errCode := 0#3 }) ∧
    (bw = 0#12 ∨ lh = 0#12 →
      exec (.init bw lh) s = .next
        { s with
          cmd := s.cmd.tail, configured := false, fault := true
          errCode := if s.fault then s.errCode else 1#3 })

/-- 40_whitener.md R90 with R141: what came before a successful INIT cannot be seen after it. Two
blocks with the same queues, whatever else they hold, emit the same tiles from the INIT on and end
alike but for the tiles emitted before. -/
def Obligations.InitErasesHistory : Prop :=
  ∀ (cfg : Config) (k : Nat) (s₁ s₂ : State) (bw lh : BitVec 12),
    nextCommand s₁ = some (.init bw lh) → legalGeometry bw lh = true →
    s₂.cmd = s₁.cmd → s₂.payload = s₁.payload → s₂.pixelAccept = s₁.pixelAccept →
    ∃ t₁ t₂ tiles, runWith cfg (k + 1) s₁ = .next t₁ ∧ runWith cfg (k + 1) s₂ = .next t₂ ∧
      t₁.pixel = s₁.pixel ++ tiles ∧ t₂.pixel = s₂.pixel ++ tiles ∧ SameFuture t₁ t₂

/-! ## ENCODE_LINE -/

/-- R143, the pseudocode: a configured block without a fault, with the `n` bytes queued and a consumer
that accepts (log 4), answers the next state in which the word and the bytes are taken, the tile is
emitted and `SEED` and `CURSOR` advance. Everything not named is unchanged. -/
def Obligations.EncodeLineResult : Prop :=
  ∀ (n : BitVec 16) (s : State), s.configured = true → s.fault = false →
    n.toNat ≤ s.payload.length → s.pixelAccept = true →
    exec (.encodeLine n) s = .next
      { s with
        cmd := s.cmd.tail
        payload := s.payload.drop n.toNat
        pixel := s.pixel ++
          [rasterize (frame Config.reference s.cursor
              (whiten Config.reference s.seed.toNat (unpack (s.payload.take n.toNat))).2)
            s.bw.toNat s.lh.toNat]
        seed := BitVec.ofNat 32
          (whiten Config.reference s.seed.toNat (unpack (s.payload.take n.toNat))).1
        cursor := s.cursor + 1 }

/-- R143, the closed form, for every value of the open parameter `STEP1` (00_scope.md R9): every pixel of
the tile from the payload bytes, the seed and the cursor, and the seed afterwards, without the stages
that compute them. -/
def Obligations.EncodeLineClosedForm : Prop :=
  ∀ (step1 : BitVec 2) (n : BitVec 16) (s : State), s.configured = true → s.fault = false →
    n.toNat ≤ s.payload.length → s.pixelAccept = true →
    ∃ tile seed',
      execWith (Config.withStep1 step1) (.encodeLine n) s = .next
        { s with
          cmd := s.cmd.tail, payload := s.payload.drop n.toNat, pixel := s.pixel ++ [tile]
          seed := seed', cursor := if s.cursor = 0 then 1 else 0 } ∧
      seed'.toNat = (lcgNext (Config.withStep1 step1))^[8 * n.toNat] s.seed.toNat ∧
      tile.height = s.lh.toNat ∧ tile.width = (14 + 8 * n.toNat) * s.bw.toNat ∧ tile.WellShaped ∧
      ∀ r c, r < s.lh.toNat → c < (14 + 8 * n.toNat) * s.bw.toNat →
        tile.pixelAt r c = some (closedFormBit (Config.withStep1 step1) s.cursor s.seed.toNat
          (s.payload.take n.toNat) (c / s.bw.toNat))

/-- 60_exceptions.md R208 whole: a rejected ENCODE_LINE. With its `n` bytes queued it answers a next
state in which the word and the bytes are taken and dropped; before a successful INIT it raises
CONFIGURATION_ERROR, and in the fault state it records nothing. No tile is emitted, and `SEED` and
`CURSOR` do not advance. R140 asks for the bytes only, so it does not wait for the consumer. -/
def Obligations.EncodeLineRejected : Prop :=
  ∀ (n : BitVec 16) (s : State), n.toNat ≤ s.payload.length →
    (s.configured = false ∧ s.fault = false →
      exec (.encodeLine n) s = .next
        { s with
          cmd := s.cmd.tail, payload := s.payload.drop n.toNat, fault := true, errCode := 1#3 }) ∧
    (s.fault = true →
      exec (.encodeLine n) s = .next
        { s with cmd := s.cmd.tail, payload := s.payload.drop n.toNat })

/-- 20_memory.md R53: where ENCODE_LINE waits. While its bytes are not queued, or while the line would
emit a tile that the consumer does not accept, nothing changes and the word stays at the head of
`CMD`. That the hold is a step which changes nothing is the model's choice (log 3), and so is the form
of the consumer's readiness (log 4). -/
def Obligations.EncodeLineHolds : Prop :=
  ∀ (n : BitVec 16) (s : State),
    (s.payload.length < n.toNat ∨
      (s.configured = true ∧ s.fault = false ∧ s.pixelAccept = false)) →
    exec (.encodeLine n) s = .next s

/-- 40_whitener.md R85, 41_line_framer.md R105, 20_memory.md R47: lines are one stream. A configured
block that is offered any lines, each with its bytes, takes them in as many steps; the whitened
payloads of the tiles are the consecutive parts of ONE whitening of all the bytes, and the tiles
alternate between the two step codes. The words and bytes that follow are left queued. -/
def Obligations.LinesAreOneStream : Prop :=
  ∀ (cfg : Config) (lines : List (List Byte)) (s : State) (laterWords : List Word)
    (laterBytes : List Byte), cfg.Legal → (∀ bytes ∈ lines, bytes.length < 65536) →
    s.configured = true → s.fault = false → s.pixelAccept = true →
    s.cmd = lines.map (fun bytes => encode (.encodeLine (BitVec.ofNat 16 bytes.length))) ++ laterWords →
    s.payload = lines.flatten ++ laterBytes →
    ∃ tiles,
      runWith cfg lines.length s = .next
        { s with
          cmd := laterWords, payload := laterBytes, pixel := s.pixel ++ tiles
          seed := BitVec.ofNat 32 (whiten cfg s.seed.toNat (unpack lines.flatten)).1
          cursor := if lines.length % 2 = 0 then s.cursor else s.cursor + 1 } ∧
      tiles.length = lines.length ∧
      ∀ (i : Nat) (bytes : List Byte), lines[i]? = some bytes →
        tiles[i]? = some (rasterize
          (frame cfg (if i % 2 = 0 then s.cursor else s.cursor + 1)
            (((whiten cfg s.seed.toNat (unpack lines.flatten)).2.drop
              (8 * (lines.take i).flatten.length)).take (8 * bytes.length)))
          s.bw.toNat s.lh.toNat)

/-- 45_commands.md R143 ("No error depends on the payload values"), 40_whitener.md R86: two blocks that
differ only in the values of the queued payload bytes, and in tiles already emitted, go on differing
only so, for any number of steps: seeds, cursor, status, queue lengths and tile shapes are equal. -/
def Obligations.PayloadValuesReachOnlyPixels : Prop :=
  ∀ (cfg : Config) (k : Nat) (s₁ s₂ t₁ : State), SameButData s₁ s₂ →
    runWith cfg k s₁ = .next t₁ → ∃ t₂, runWith cfg k s₂ = .next t₂ ∧ SameButData t₁ t₂

/-- 00_scope.md R12: the derived widths. Every tile that an ENCODE_LINE emits has `L · BW` columns with
`L` from 14 to 524294, fewer than `2^31`, and at most 4095 rows. -/
def Obligations.TileDimensionsBounded : Prop :=
  ∀ (n : BitVec 16) (s t : State) (tile : Tile), exec (.encodeLine n) s = .next t →
    t.pixel = s.pixel ++ [tile] →
    tile.height = s.lh.toNat ∧ tile.width = (14 + 8 * n.toNat) * s.bw.toNat ∧
      14 ≤ 14 + 8 * n.toNat ∧ 14 + 8 * n.toNat ≤ 524294 ∧
      tile.width ≤ 2146983930 ∧ tile.width < 2 ^ 31 ∧ tile.height ≤ 4095

/-! ## ILLEGAL, errors and the fault state -/

/-- R207 whole: an illegal word answers a next state in which the word is taken and ILLEGAL_COMMAND is
raised, recorded only if `FAULT` was 0 (R203); no payload byte is taken and everything else is
unchanged. -/
def Obligations.IllegalCommandResult : Prop :=
  ∀ (w : Word) (s : State),
    exec (.illegal w) s = .next
      { s with
        cmd := s.cmd.tail, fault := true, errCode := if s.fault then s.errCode else 2#3 }

/-- R203 and R214 whole: `error(code)` writes `FAULT` and `ERR_CODE` if `FAULT` was 0, changes nothing
otherwise, and so a second error of any kind leaves what the first recorded. -/
def Obligations.ErrorEntersFaultStateOnce : Prop :=
  ∀ (kind : ErrorKind) (s : State),
    (s.fault = false → raiseError kind s = { s with fault := true, errCode := errorCode kind }) ∧
    (s.fault = true → raiseError kind s = s) ∧
    ∀ later : ErrorKind, raiseError later (raiseError kind s) = raiseError kind s

/-- R213, R212: the fault state is sticky. A step from it either leaves everything but the two input
queues and `CONFIGURED` as it was, or performs a successful INIT, which clears `FAULT` and `ERR_CODE`
and restarts `SEED` and `CURSOR`; `CONFIGURED` changes in it only by an INIT that fails. Of the host's
moves only the hardware reset leaves the fault state. -/
def Obligations.OnlyInitLeavesFaultState : Prop :=
  (∀ s t : State, s.fault = true → step s = .next t →
    (t = { s with cmd := t.cmd, payload := t.payload, configured := t.configured } ∧
      (t.configured = s.configured ∨
        ∃ bw lh, nextCommand s = some (.init bw lh) ∧ legalGeometry bw lh = false ∧
          t.configured = false)) ∨
    (t.fault = false ∧ t.errCode = 0#3 ∧ t.seed = 0xDEADBEEF#32 ∧ t.cursor = 0 ∧
      ∃ bw lh, nextCommand s = some (.init bw lh) ∧ legalGeometry bw lh = true)) ∧
  ∀ (a : HostAction) (s : State), s.fault = true →
    ((hostAct a s).fault = false ↔ a = .hardwareReset)

/-- R146, R204: what may write the computational state. A step emits one tile from a configured block
without a fault, by an ENCODE_LINE, and keeps the geometry and the status; or it is a successful INIT
and emits nothing; or it leaves `SEED`, `CURSOR`, `BW`, `LH` and the tiles unchanged. -/
def Obligations.ComputationalStateCommits : Prop :=
  ∀ s t : State, step s = .next t →
    (∃ n tile, nextCommand s = some (.encodeLine n) ∧ s.configured = true ∧ s.fault = false ∧
      t.pixel = s.pixel ++ [tile] ∧ t.cursor = s.cursor + 1 ∧ t.bw = s.bw ∧ t.lh = s.lh ∧
      t.configured = true ∧ t.fault = false ∧ t.errCode = s.errCode) ∨
    (∃ bw lh, nextCommand s = some (.init bw lh) ∧ legalGeometry bw lh = true ∧ t.bw = bw ∧
      t.lh = lh ∧ t.seed = 0xDEADBEEF#32 ∧ t.cursor = 0 ∧ t.pixel = s.pixel) ∨
    (t.seed = s.seed ∧ t.cursor = s.cursor ∧ t.bw = s.bw ∧ t.lh = s.lh ∧ t.pixel = s.pixel)

/-- 10_state.md R25, R28: the configuration is written by INIT alone. A step that changes `CONFIGURED`,
`BW` or `LH` performs an INIT, which sets `CONFIGURED` exactly if its geometry is legal and stores the
geometry only then. -/
def Obligations.OnlyInitWritesConfiguration : Prop :=
  ∀ s t : State, step s = .next t →
    (t.configured ≠ s.configured ∨ t.bw ≠ s.bw ∨ t.lh ≠ s.lh) →
    ∃ bw lh, nextCommand s = some (.init bw lh) ∧ t.configured = legalGeometry bw lh ∧
      (legalGeometry bw lh = true → t.bw = bw ∧ t.lh = lh) ∧
      (legalGeometry bw lh = false → t.bw = s.bw ∧ t.lh = s.lh)

/-- 10_state.md R27, 20_memory.md R45: the fields of the `STATUS` word, and that reading it changes
nothing. Nothing is said of the reserved bits 31:6 (93_implementation_defined.md I6: "A claim must not
depend on them"; log 6). -/
def Obligations.StatusWordLayout : Prop :=
  ∀ s : State,
    (statusWord s).getLsbD 0 = s.configured ∧ (statusWord s).getLsbD 1 = s.fault ∧
    (statusWord s).extractLsb' 2 3 = s.errCode ∧
    ((statusWord s).getLsbD 5 = true ↔ s.cmd = []) ∧
    readStatus s = (statusWord s, s)

/-! ## Reset -/

/-- R240 and R241: hardware reset of any state, and the machine's reset state. Of `STATUS` it states the
six bits that have a meaning, not the reserved ones (93_implementation_defined.md I6; log 6). -/
def Obligations.ResetState : Prop :=
  ∀ s r : State, (r = hardwareReset s ∨ r = State.reset) →
    r.seed = 0xDEADBEEF#32 ∧ r.cursor = 0 ∧ r.bw = 0#12 ∧ r.lh = 0#12 ∧ r.configured = false ∧
      r.fault = false ∧ r.errCode = 0#3 ∧ r.cmd = [] ∧ r.payload = [] ∧
      (statusWord r).extractLsb' 0 6 = 0x20#6 ∧ (hardwareReset s).pixel = s.pixel

/-- R242 whole: reset and a successful INIT give the same whitening and step state, so that the next
payload bit is XORed with the low bit of `lcg_next(SEED0)` and the next line uses `STEP[0]`; they differ
in the configuration. -/
def Obligations.ResetAndInitAgree : Prop :=
  ∀ (bw lh : BitVec 12) (s t : State), bw ≠ 0#12 → lh ≠ 0#12 → exec (.init bw lh) s = .next t →
    (∀ r : State, r = hardwareReset s ∨ r = t →
      r.seed = Config.reference.seed0 ∧ r.cursor = 0 ∧
        (∀ b : Bit, (whiten Config.reference r.seed.toNat [b]).2 =
          [Bool.xor b (lcgNext Config.reference Config.reference.seed0.toNat % 2 == 1)]) ∧
        stepEntry Config.reference r.cursor = [false, true]) ∧
    ((hardwareReset s).configured = false ∧ (hardwareReset s).bw = 0#12 ∧
      (hardwareReset s).lh = 0#12) ∧
    (t.configured = true ∧ t.bw = bw ∧ t.lh = lh)

/-! ## Invariants -/

/-- The invariant holds at reset (10_state.md R22, R25, R28; 60_exceptions.md R201). -/
def Obligations.GoodAtReset : Prop := Good State.reset

/-- Every step keeps the invariant, from every state that has it: `FAULT = 0` exactly if `ERR_CODE = 0`
(10_state.md R28), codes 3 to 7 never appear (60_exceptions.md R201), a configured block holds legal
geometry (R25), `SEED` holds `SEED0` or a value below `LCG_M` (R22), and tiles are whole
(20_memory.md R43). -/
def Obligations.GoodKeptByStep : Prop :=
  ∀ s t : State, Good s → step s = .next t → Good t

/-- Every move of the host keeps the invariant (48_host_pipeline.md R177), hardware reset among them
(70_reset_and_hazards.md R240), from every state that has it. -/
def Obligations.GoodKeptByHost : Prop :=
  ∀ (a : HostAction) (s : State), Good s → Good (hostAct a s)

/-- The invariant holds in every state that block steps and host moves, hardware reset among them, lead
to from reset. -/
def Obligations.ReachableStatesGood : Prop :=
  ∀ s : State, Reachable s → Good s

/-- 40_whitener.md R85, 41_line_framer.md R105, 10_state.md R22: `SEED` and `CURSOR` follow the history
of the stream at every step, for any legal constants: as many generator steps from `SEED0` as payload
bits were whitened since the last successful INIT, and the parity of the lines completed. -/
def Obligations.StreamHistoryKeptByStep : Prop :=
  ∀ (cfg : Config) (h : StreamHistory) (s t : State), cfg.Legal → h.Describes cfg s →
    stepWith cfg s = .next t → (h.after s).Describes cfg t

/-- At reset nothing has been whitened and no line completed (70_reset_and_hazards.md R240). -/
def Obligations.StreamHistoryAtReset : Prop :=
  ∀ cfg : Config, (StreamHistory.mk 0 0).Describes cfg (State.resetWith cfg)

/-! ## Whitener -/

/-- 00_scope.md R13: `SEED0` exceeds `LCG_M`, every later value is below it, and the product and sum of
a step fit in 63 bits for every 32-bit seed. -/
def Obligations.SeedFitsAndProductIsExact : Prop :=
  Config.reference.lcgM < Config.reference.seed0.toNat ∧
  ∀ seed : BitVec 32,
    lcgNext Config.reference seed.toNat < Config.reference.lcgM ∧
      lcgNext Config.reference seed.toNat < 2 ^ 32 ∧
      Config.reference.lcgA * seed.toNat + Config.reference.lcgC < 2 ^ 63

/-- R83 and R86: the result of whitening in closed form. The final seed is as many steps on as there are
bits, whatever the bits are, and whitened bit `k` is payload bit `k` XOR the low bit of the seed after
`k + 1` steps. -/
def Obligations.WhitenClosedForm : Prop :=
  ∀ (cfg : Config) (s : Nat) (p : List Bit),
    (whiten cfg s p).1 = (lcgNext cfg)^[p.length] s ∧
    (whiten cfg s p).2.length = p.length ∧
    ∀ (k : Nat) (b : Bit), p[k]? = some b →
      (whiten cfg s p).2[k]? = some (Bool.xor b ((lcgNext cfg)^[k + 1] s % 2 == 1))

/-- R85: whitening goes on across a boundary, wherever the stream is cut. -/
def Obligations.WhiteningContinues : Prop :=
  ∀ (cfg : Config) (s : Nat) (p q : List Bit),
    whiten cfg s (p ++ q) =
      ((whiten cfg (whiten cfg s p).1 q).1,
        (whiten cfg s p).2 ++ (whiten cfg (whiten cfg s p).1 q).2)

/-- R89 whole: whitening is its own inverse, and both calls end at the same seed. -/
def Obligations.WhitenSelfInverse : Prop :=
  ∀ (cfg : Config) (s s' : Nat) (p w : List Bit),
    whiten cfg s p = (s', w) → whiten cfg s w = (s', p)

/-- R88, of seeds and whitened bits: the initial seed exceeds the modulus, and reducing it (or any seed)
first gives the same seeds from the first step on and the same whitened bits. Of the tiles
`Obligations.ReducedSeedsGiveSameRuns` speaks. -/
def Obligations.SeedReductionIsInvisible : Prop :=
  Config.reference.seed0.toNat = 3735928559 ∧ 2147483647 < Config.reference.seed0.toNat ∧
  Config.reference.seed0.toNat % Config.reference.lcgM = 1588444912 ∧
  ∀ (cfg : Config) (s : Nat),
    (∀ k : Nat, (lcgNext cfg)^[k + 1] (s % cfg.lcgM) = (lcgNext cfg)^[k + 1] s) ∧
    ∀ p : List Bit, (whiten cfg (s % cfg.lcgM) p).2 = (whiten cfg s p).2 ∧
      (p ≠ [] → (whiten cfg (s % cfg.lcgM) p).1 = (whiten cfg s p).1)

/-- R88, of tiles: take two readings of the whitener whose initial seeds agree modulo `LCG_M`, and two
blocks that differ only in seeds that agree so. They run alike for any number of steps: the tiles, the
status and the queues are equal, and the seeds, "which no port shows" (10_state.md R34), go on agreeing
modulo `LCG_M`. -/
def Obligations.ReducedSeedsGiveSameRuns : Prop :=
  ∀ (cfg : Config) (seed0' seed' : BitVec 32) (k : Nat) (s : State),
    seed0'.toNat % cfg.lcgM = cfg.seed0.toNat % cfg.lcgM →
    seed'.toNat % cfg.lcgM = s.seed.toNat % cfg.lcgM →
    ∃ t seed'', runWith cfg k s = .next t ∧
      runWith { cfg with seed0 := seed0' } k { s with seed := seed' } =
        .next { t with seed := seed'' } ∧
      seed''.toNat % cfg.lcgM = t.seed.toNat % cfg.lcgM

/-- R92: the first seeds and whitening bits. -/
def Obligations.FirstWhiteningBits : Prop :=
  (List.range 20).map (fun k => (lcgNext Config.reference)^[k + 1] 3735928559) =
    [242124325, 2130120679, 183665055, 844754580, 190024283, 1777191780, 2013208531, 1093565796,
      1809228627, 1824724375, 22148324, 1435014974, 1831164446, 1671873385, 1022784558, 893207908,
      15649904, 923931056, 1854002901, 323269264] ∧
  whiten Config.reference 3735928559 (List.replicate 256 false) =
    ((lcgNext Config.reference)^[256] 3735928559,
      unpack [0xEA#8, 0xC4#8, 0x21#8, 0x94#8, 0x9B#8, 0xE6#8, 0x38#8, 0x95#8, 0xB5#8, 0xAB#8,
        0x07#8, 0xB4#8, 0xC3#8, 0x05#8, 0x0A#8, 0xCA#8, 0x26#8, 0x85#8, 0xE7#8, 0x13#8, 0x67#8,
        0x0F#8, 0xAA#8, 0x9C#8, 0x9B#8, 0x04#8, 0x72#8, 0x2A#8, 0x87#8, 0x3B#8, 0x34#8, 0xC6#8]) ∧
  (lcgNext Config.reference)^[128] 3735928559 = 937904488

/-- R87: the generator is a bijection on `[0, LCG_M − 1]`. -/
def Obligations.GeneratorIsBijection : Prop :=
  Nat.Prime Config.reference.lcgM ∧
  ∀ y, y < Config.reference.lcgM →
    ∃! x, x < Config.reference.lcgM ∧ lcgNext Config.reference x = y

/-- R87: its only fixed point is 1934915413, and no seed of the stream from `SEED0` is that one. -/
def Obligations.GeneratorFixedPoint : Prop :=
  (∀ x, x < Config.reference.lcgM → (lcgNext Config.reference x = x ↔ x = 1934915413)) ∧
  ∀ k : Nat, (lcgNext Config.reference)^[k] Config.reference.seed0.toNat ≠ 1934915413

/-- R87: from every other seed the sequence is periodic with period exactly 2147483646, and so the seeds
of a stream from `SEED0` shorter than that are all different. -/
def Obligations.GeneratorPeriod : Prop :=
  (∀ x k : Nat, x < Config.reference.lcgM → x ≠ 1934915413 →
    ((lcgNext Config.reference)^[k] x = x ↔ 2147483646 ∣ k)) ∧
  ∀ j k : Nat, 0 < j → j < k → k - j < 2147483646 →
    (lcgNext Config.reference)^[j] Config.reference.seed0.toNat ≠
      (lcgNext Config.reference)^[k] Config.reference.seed0.toNat

/-! ## Framer and rasterizer -/

/-- 41_line_framer.md R100 whole: `p[8j + (7 − i)] = bytes[j][i]`, and nothing more. -/
def Obligations.UnpackMsbFirst : Prop :=
  ∀ bytes : List Byte,
    (unpack bytes).length = 8 * bytes.length ∧
    ∀ (j i : Nat) (b : Byte), bytes[j]? = some b → i < 8 →
      (unpack bytes)[8 * j + (7 - i)]? = some (b.getLsbD i)

/-- R102 and R103: the framed line, position by position, for every value of `STEP1`. -/
def Obligations.FramedLinePositions : Prop :=
  ∀ (step1 : BitVec 2) (cursor : Fin 2) (w : List Bit) (i : Nat),
    (frame (Config.withStep1 step1) cursor w).length = 14 + w.length ∧
    (i < 6 → (frame (Config.withStep1 step1) cursor w)[i]? =
      [false, false, false, true, true, true][i]?) ∧
    (i < 2 → (frame (Config.withStep1 step1) cursor w)[6 + i]? =
      if cursor = 0 then [false, true][i]? else [step1.getLsbD 1, step1.getLsbD 0][i]?) ∧
    (i < w.length → (frame (Config.withStep1 step1) cursor w)[8 + i]? = w[i]?) ∧
    (i < 6 → (frame (Config.withStep1 step1) cursor w)[8 + w.length + i]? =
      [true, true, true, false, false, false][i]?)

/-- R108: two consecutive lines always differ in framed bits 6 and 7 exactly if `STEP1 ≠ 01`; with the
default `10` they differ in both. -/
def Obligations.ConsecutiveLinesDiffer : Prop :=
  (∀ step1 : BitVec 2,
    (∀ (cursor : Fin 2) (w w' : List Bit),
      ((frame (Config.withStep1 step1) cursor w).drop 6).take 2 ≠
        ((frame (Config.withStep1 step1) (advanceCursor cursor) w').drop 6).take 2) ↔
      step1 ≠ 0b01#2) ∧
  ∀ (cursor : Fin 2) (w w' : List Bit) (i : Nat), i = 6 ∨ i = 7 →
    (frame (Config.withStep1 0b10#2) cursor w)[i]? ≠
      (frame (Config.withStep1 0b10#2) (advanceCursor cursor) w')[i]?

/-- 42_rasterizer.md R120, R121, R122: the shape of a tile and every pixel of it, and no pixel outside
it. -/
def Obligations.RasterizedPixels : Prop :=
  ∀ (f : List Bit) (bw lh r c : Nat),
    (rasterize f bw lh).height = lh ∧ (rasterize f bw lh).width = f.length * bw ∧
    (rasterize f bw lh).WellShaped ∧
    (r < lh → c < f.length * bw → (rasterize f bw lh).pixelAt r c = f[c / bw]?) ∧
    ((lh ≤ r ∨ f.length * bw ≤ c) → (rasterize f bw lh).pixelAt r c = none)

/-- 20_memory.md R44: on the wire pixel number `q` of a tile is `T[q div W][q mod W]`, and there are
`H · W` of them. -/
def Obligations.WireOrderIsRowMajor : Prop :=
  ∀ (tile : Tile) (q : Nat), tile.WellShaped →
    tile.wire.length = tile.height * tile.width ∧
    (q < tile.height * tile.width →
      tile.wire[q]? = tile.pixelAt (q / tile.width) (q % tile.width))

/-! ## Assembler and host software -/

/-- 30_encoding.md R68: a statement whose operands are in range is the word of its command, `.word` is
the word itself, and an operand outside its field's range is an assembler error. -/
def Obligations.AssemblerWords : Prop :=
  (∀ bw lh : BitVec 12,
    assembleStmt (.init bw.toNat lh.toNat) = .ok ([encode (.init bw lh)], [])) ∧
  (∀ n : BitVec 16, assembleStmt (.encodeLine n.toNat) = .ok ([encode (.encodeLine n)], [])) ∧
  (∀ w : Word, assembleStmt (.word w.toNat) = .ok ([w], [])) ∧
  (∀ bytes : List Byte, assembleStmt (.payload (bytes.map BitVec.toNat)) = .ok ([], bytes)) ∧
  (∀ bw lh : Nat, 4096 ≤ bw ∨ 4096 ≤ lh → assembleStmt (.init bw lh) = .error .operandRange) ∧
  (∀ n : Nat, 65536 ≤ n → assembleStmt (.encodeLine n) = .error .operandRange) ∧
  (∀ v : Nat, 2 ^ 32 ≤ v → assembleStmt (.word v) = .error .operandRange) ∧
  ∀ bytes : List Nat, (∃ b ∈ bytes, 256 ≤ b) → assembleStmt (.payload bytes) = .error .operandRange

/-- R69: `LINE` expands to `ENCODE_LINE n` followed by `PAYLOAD`, anywhere in a program. -/
def Obligations.LinePseudoExpands : Prop :=
  ∀ (bytes : List Nat) (rest : List AsmStmt),
    assemble (.line bytes :: rest) = assemble (.encodeLine bytes.length :: .payload bytes :: rest)

/-- 48_host_pipeline.md R171 and the property W2: the padding count. -/
def Obligations.NeededPaddingRange : Prop :=
  ∀ currentSize blockSize : Nat, 1 ≤ blockSize →
    1 ≤ neededPadding currentSize blockSize ∧ neededPadding currentSize blockSize ≤ blockSize ∧
    (currentSize + neededPadding currentSize blockSize) % blockSize = 0 ∧
    (blockSize ∣ currentSize → neededPadding currentSize blockSize = blockSize)

/-- R172: the padding bytes (property W3), none for a count of 0, and a RangeError above 255. -/
def Obligations.PaddingBytes : Prop :=
  pad 0 = .ok [] ∧ (∀ count, 255 < count → pad count = .error .rangeError) ∧
  ∀ count, 1 ≤ count → count ≤ 255 →
    ∃ bytes, pad count = .ok bytes ∧ bytes.length = count ∧
      bytes.getLast? = some (BitVec.ofNat 8 count) ∧ (BitVec.ofNat 8 count).toNat = count ∧
      ∀ b ∈ bytes.dropLast, b = 0#8

/-- R175 with R170 and 90_conflicts.md C4: the contract of the FEC capability. With legal parameters a
message of `k` bytes gives exactly `n` bytes and one of another length a ShapeError. With illegal
parameters, `k ≥ n` among them, it rejects every message with a ConfigurationError, as padding does
(that this comes before the ShapeError, where both apply, is the model's choice, log 18). -/
def Obligations.FecContract : Prop :=
  ∀ (params : CodecParameters) (message : List Byte),
    (0 < messageSize params ∧ messageSize params < params.blockSize ∧ params.blockSize ≤ 255 →
      (message.length = messageSize params →
        ∃ codeword, fecEncode params message = .ok codeword ∧
          codeword.length = params.blockSize) ∧
      (message.length ≠ messageSize params → fecEncode params message = .error .shapeError)) ∧
    (messageSize params = 0 ∨ params.blockSize ≤ messageSize params ∨ 255 < params.blockSize →
      fecEncode params message = .error .configurationError ∧
        paddedInput params message = .error .configurationError)

/-- R170, R174 and the property W4: segmentation. Legal parameters give codewords of exactly `n` bytes,
as many as the padded length holds messages of `k` bytes; illegal parameters raise ConfigurationError
(that they do so here, where they are used, and not at their construction is the model's choice,
log 18). The codewords' bytes are open (N5). -/
def Obligations.SegmentationComplete : Prop :=
  ∀ (params : CodecParameters) (input : List Byte),
    (legalParameters params = false → segmentInput params input = .error .configurationError) ∧
    (legalParameters params = true →
      ∃ codewords, segmentInput params input = .ok codewords ∧
        (input.length + neededPadding input.length (messageSize params)) % messageSize params = 0 ∧
        codewords.length =
          (input.length + neededPadding input.length (messageSize params)) / messageSize params ∧
        ∀ codeword ∈ codewords, codeword.length = params.blockSize)

/-- R176: slicing into lines loses and reorders nothing, and no line is empty or longer than
`BYTES_PER_LINE`; only the last may be shorter. -/
def Obligations.SlicedLinesKeepTheStream : Prop :=
  ∀ (bytesPerLine : Nat) (codewords : List (List Byte)), 1 ≤ bytesPerLine →
    (sliceLines bytesPerLine codewords).flatten = codewords.flatten ∧
    (∀ line ∈ sliceLines bytesPerLine codewords, line ≠ [] ∧ line.length ≤ bytesPerLine) ∧
    ∀ line ∈ (sliceLines bytesPerLine codewords).dropLast, line.length = bytesPerLine
end

