-- ==== Sys2Proof/Laws/Encoding.lean ====
section
/-! SUPPORT. The bits of an encoded command, each field where 30_encoding.md R62 and R63 put it. -/

namespace Sys2Proof

/-- The bits of an INIT word: `LHF` in 11:0, `BWF` in 23:12, and of the bits above only bit 28 (R62). -/
theorem encode_init_getLsbD (bw lh : BitVec 12) (k : Nat) :
    (encode (.init bw lh)).getLsbD k =
      if k < 12 then lh.getLsbD k else if k < 24 then bw.getLsbD (k - 12) else decide (k = 28) := by
  show (0b0001#4 ++ 0#4 ++ bw ++ lh : BitVec (4 + 4 + 12 + 12)).getLsbD k = _
  simp only [BitVec.getLsbD_append]
  by_cases h1 : k < 12
  · simp [h1]
  by_cases h2 : k < 24
  · simp [h1, h2, show k - 12 < 12 by omega]
  obtain ⟨j, rfl⟩ : ∃ j, k = 24 + j := ⟨k - 24, by omega⟩
  simp only [h1, h2, if_false, show ¬24 + j - 12 < 12 by omega, show 24 + j - 12 - 12 = j by omega]
  split
  · simp
    omega
  · by_cases h3 : j < 8
    · interval_cases j <;> rfl
    · rw [BitVec.getLsbD_of_ge _ _ (by omega)]
      simp
      omega

/-- The bits of an ENCODE_LINE word: `NBF` in 15:0, and of the bits above only bit 29 (R63). -/
theorem encode_encodeLine_getLsbD (n : BitVec 16) (k : Nat) :
    (encode (.encodeLine n)).getLsbD k = if k < 16 then n.getLsbD k else decide (k = 29) := by
  show (0b0010#4 ++ 0#12 ++ n : BitVec (4 + 12 + 16)).getLsbD k = _
  simp only [BitVec.getLsbD_append]
  by_cases h1 : k < 16
  · simp [h1]
  obtain ⟨j, rfl⟩ : ∃ j, k = 16 + j := ⟨k - 16, by omega⟩
  simp only [h1, if_false, show 16 + j - 16 = j by omega]
  split
  · simp
    omega
  · by_cases h3 : j < 16
    · interval_cases j <;> rfl
    · rw [BitVec.getLsbD_of_ge _ _ (by omega)]
      simp
      omega

end Sys2Proof
end

