-- ==== Sys2Proof/Laws/Host.lean ====
section
/-! SUPPORT. What a use of `CodecParameters` can do, said once. -/

namespace Sys2Proof.Machine

/-- Legal parameters let their use go on (48_host_pipeline.md R170). -/
theorem withLegal_of_legal {α : Type} {params : CodecParameters} (use : Except HostError α)
    (h : legalParameters params = true) : withLegal params use = use := if_pos h

/-- Illegal parameters raise ConfigurationError, whatever the use (48_host_pipeline.md R170). -/
theorem withLegal_of_illegal {α : Type} {params : CodecParameters} (use : Except HostError α)
    (h : legalParameters params = false) : withLegal params use = .error .configurationError := by
  simp [withLegal, h]

/-- A use that succeeds had legal parameters and is that use. -/
theorem withLegal_eq_ok {α : Type} {params : CodecParameters} {use : Except HostError α} {a : α} :
    withLegal params use = .ok a ↔ legalParameters params = true ∧ use = .ok a := by
  cases h : legalParameters params <;> simp [withLegal, h]

end Sys2Proof.Machine
end

