-- ==== Sys2Proof/Laws/State.lean ====
section
/-! SUPPORT. One lemma per field of `State` and per update, each true by `rfl`, so that no proof
unfolds a record update. -/

namespace Sys2Proof.Machine

/-! ## takeCommand: InCmd() (20_memory.md R41) -/

@[simp] theorem takeCommand_seed (s : State) : (takeCommand s).seed = s.seed := rfl

@[simp] theorem takeCommand_cursor (s : State) : (takeCommand s).cursor = s.cursor := rfl

@[simp] theorem takeCommand_bw (s : State) : (takeCommand s).bw = s.bw := rfl

@[simp] theorem takeCommand_lh (s : State) : (takeCommand s).lh = s.lh := rfl

@[simp] theorem takeCommand_configured (s : State) :
    (takeCommand s).configured = s.configured := rfl

@[simp] theorem takeCommand_fault (s : State) : (takeCommand s).fault = s.fault := rfl

@[simp] theorem takeCommand_errCode (s : State) : (takeCommand s).errCode = s.errCode := rfl

@[simp] theorem takeCommand_cmd (s : State) : (takeCommand s).cmd = s.cmd.tail := rfl

@[simp] theorem takeCommand_payload (s : State) : (takeCommand s).payload = s.payload := rfl

@[simp] theorem takeCommand_pixel (s : State) : (takeCommand s).pixel = s.pixel := rfl

@[simp] theorem takeCommand_pixelAccept (s : State) :
    (takeCommand s).pixelAccept = s.pixelAccept := rfl

/-! ## takeBytes: InByte(), `n` times (20_memory.md R42) -/

@[simp] theorem takeBytes_seed (n : BitVec 16) (s : State) : (takeBytes n s).seed = s.seed := rfl

@[simp] theorem takeBytes_cursor (n : BitVec 16) (s : State) :
    (takeBytes n s).cursor = s.cursor := rfl

@[simp] theorem takeBytes_bw (n : BitVec 16) (s : State) : (takeBytes n s).bw = s.bw := rfl

@[simp] theorem takeBytes_lh (n : BitVec 16) (s : State) : (takeBytes n s).lh = s.lh := rfl

@[simp] theorem takeBytes_configured (n : BitVec 16) (s : State) :
    (takeBytes n s).configured = s.configured := rfl

@[simp] theorem takeBytes_fault (n : BitVec 16) (s : State) : (takeBytes n s).fault = s.fault := rfl

@[simp] theorem takeBytes_errCode (n : BitVec 16) (s : State) :
    (takeBytes n s).errCode = s.errCode := rfl

@[simp] theorem takeBytes_cmd (n : BitVec 16) (s : State) : (takeBytes n s).cmd = s.cmd := rfl

@[simp] theorem takeBytes_payload (n : BitVec 16) (s : State) :
    (takeBytes n s).payload = s.payload.drop n.toNat := rfl

@[simp] theorem takeBytes_pixel (n : BitVec 16) (s : State) : (takeBytes n s).pixel = s.pixel := rfl

@[simp] theorem takeBytes_pixelAccept (n : BitVec 16) (s : State) :
    (takeBytes n s).pixelAccept = s.pixelAccept := rfl

/-! ## emitTile: EmitTile (20_memory.md R43) -/

@[simp] theorem emitTile_seed (t : Tile) (s : State) : (emitTile t s).seed = s.seed := rfl

@[simp] theorem emitTile_cursor (t : Tile) (s : State) : (emitTile t s).cursor = s.cursor := rfl

@[simp] theorem emitTile_bw (t : Tile) (s : State) : (emitTile t s).bw = s.bw := rfl

@[simp] theorem emitTile_lh (t : Tile) (s : State) : (emitTile t s).lh = s.lh := rfl

@[simp] theorem emitTile_configured (t : Tile) (s : State) :
    (emitTile t s).configured = s.configured := rfl

@[simp] theorem emitTile_fault (t : Tile) (s : State) : (emitTile t s).fault = s.fault := rfl

@[simp] theorem emitTile_errCode (t : Tile) (s : State) : (emitTile t s).errCode = s.errCode := rfl

@[simp] theorem emitTile_cmd (t : Tile) (s : State) : (emitTile t s).cmd = s.cmd := rfl

@[simp] theorem emitTile_payload (t : Tile) (s : State) : (emitTile t s).payload = s.payload := rfl

@[simp] theorem emitTile_pixel (t : Tile) (s : State) : (emitTile t s).pixel = s.pixel ++ [t] := rfl

@[simp] theorem emitTile_pixelAccept (t : Tile) (s : State) :
    (emitTile t s).pixelAccept = s.pixelAccept := rfl

/-! ## clearError: leaving the fault state (60_exceptions.md R213) -/

@[simp] theorem clearError_seed (s : State) : (clearError s).seed = s.seed := rfl

@[simp] theorem clearError_cursor (s : State) : (clearError s).cursor = s.cursor := rfl

@[simp] theorem clearError_bw (s : State) : (clearError s).bw = s.bw := rfl

@[simp] theorem clearError_lh (s : State) : (clearError s).lh = s.lh := rfl

@[simp] theorem clearError_configured (s : State) : (clearError s).configured = s.configured := rfl

@[simp] theorem clearError_fault (s : State) : (clearError s).fault = false := rfl

@[simp] theorem clearError_errCode (s : State) : (clearError s).errCode = noError := rfl

@[simp] theorem clearError_cmd (s : State) : (clearError s).cmd = s.cmd := rfl

@[simp] theorem clearError_payload (s : State) : (clearError s).payload = s.payload := rfl

@[simp] theorem clearError_pixel (s : State) : (clearError s).pixel = s.pixel := rfl

@[simp] theorem clearError_pixelAccept (s : State) :
    (clearError s).pixelAccept = s.pixelAccept := rfl

/-! ## construct: a successful INIT (45_commands.md R141) -/

@[simp] theorem construct_seed (cfg : Config) (bw lh : BitVec 12) (s : State) :
    (construct cfg bw lh s).seed = cfg.seed0 := rfl

@[simp] theorem construct_cursor (cfg : Config) (bw lh : BitVec 12) (s : State) :
    (construct cfg bw lh s).cursor = 0 := rfl

@[simp] theorem construct_bw (cfg : Config) (bw lh : BitVec 12) (s : State) :
    (construct cfg bw lh s).bw = bw := rfl

@[simp] theorem construct_lh (cfg : Config) (bw lh : BitVec 12) (s : State) :
    (construct cfg bw lh s).lh = lh := rfl

@[simp] theorem construct_configured (cfg : Config) (bw lh : BitVec 12) (s : State) :
    (construct cfg bw lh s).configured = true := rfl

@[simp] theorem construct_fault (cfg : Config) (bw lh : BitVec 12) (s : State) :
    (construct cfg bw lh s).fault = false := rfl

@[simp] theorem construct_errCode (cfg : Config) (bw lh : BitVec 12) (s : State) :
    (construct cfg bw lh s).errCode = noError := rfl

@[simp] theorem construct_cmd (cfg : Config) (bw lh : BitVec 12) (s : State) :
    (construct cfg bw lh s).cmd = s.cmd := rfl

@[simp] theorem construct_payload (cfg : Config) (bw lh : BitVec 12) (s : State) :
    (construct cfg bw lh s).payload = s.payload := rfl

@[simp] theorem construct_pixel (cfg : Config) (bw lh : BitVec 12) (s : State) :
    (construct cfg bw lh s).pixel = s.pixel := rfl

@[simp] theorem construct_pixelAccept (cfg : Config) (bw lh : BitVec 12) (s : State) :
    (construct cfg bw lh s).pixelAccept = s.pixelAccept := rfl

/-! ## completeLine: a completed ENCODE_LINE (45_commands.md R143) -/

@[simp] theorem completeLine_seed (cfg : Config) (bytes : List Byte) (s : State) :
    (completeLine cfg bytes s).seed = BitVec.ofNat 32 (whitenLine cfg bytes s).1 := rfl

@[simp] theorem completeLine_cursor (cfg : Config) (bytes : List Byte) (s : State) :
    (completeLine cfg bytes s).cursor = advanceCursor s.cursor := rfl

@[simp] theorem completeLine_bw (cfg : Config) (bytes : List Byte) (s : State) :
    (completeLine cfg bytes s).bw = s.bw := rfl

@[simp] theorem completeLine_lh (cfg : Config) (bytes : List Byte) (s : State) :
    (completeLine cfg bytes s).lh = s.lh := rfl

@[simp] theorem completeLine_configured (cfg : Config) (bytes : List Byte) (s : State) :
    (completeLine cfg bytes s).configured = s.configured := rfl

@[simp] theorem completeLine_fault (cfg : Config) (bytes : List Byte) (s : State) :
    (completeLine cfg bytes s).fault = s.fault := rfl

@[simp] theorem completeLine_errCode (cfg : Config) (bytes : List Byte) (s : State) :
    (completeLine cfg bytes s).errCode = s.errCode := rfl

@[simp] theorem completeLine_cmd (cfg : Config) (bytes : List Byte) (s : State) :
    (completeLine cfg bytes s).cmd = s.cmd := rfl

@[simp] theorem completeLine_payload (cfg : Config) (bytes : List Byte) (s : State) :
    (completeLine cfg bytes s).payload = s.payload := rfl

@[simp] theorem completeLine_pixel (cfg : Config) (bytes : List Byte) (s : State) :
    (completeLine cfg bytes s).pixel = s.pixel ++ [lineTile cfg bytes s] := rfl

@[simp] theorem completeLine_pixelAccept (cfg : Config) (bytes : List Byte) (s : State) :
    (completeLine cfg bytes s).pixelAccept = s.pixelAccept := rfl

/-! ## hardwareReset: hardware reset (70_reset_and_hazards.md R240) -/

@[simp] theorem hardwareReset_seed (s : State) :
    (hardwareReset s).seed = Config.reference.seed0 := rfl

@[simp] theorem hardwareReset_cursor (s : State) : (hardwareReset s).cursor = 0 := rfl

@[simp] theorem hardwareReset_bw (s : State) : (hardwareReset s).bw = 0#12 := rfl

@[simp] theorem hardwareReset_lh (s : State) : (hardwareReset s).lh = 0#12 := rfl

@[simp] theorem hardwareReset_configured (s : State) : (hardwareReset s).configured = false := rfl

@[simp] theorem hardwareReset_fault (s : State) : (hardwareReset s).fault = false := rfl

@[simp] theorem hardwareReset_errCode (s : State) : (hardwareReset s).errCode = 0#3 := rfl

@[simp] theorem hardwareReset_cmd (s : State) : (hardwareReset s).cmd = [] := rfl

@[simp] theorem hardwareReset_payload (s : State) : (hardwareReset s).payload = [] := rfl

@[simp] theorem hardwareReset_pixel (s : State) : (hardwareReset s).pixel = s.pixel := rfl

@[simp] theorem hardwareReset_pixelAccept (s : State) :
    (hardwareReset s).pixelAccept = s.pixelAccept := rfl

end Sys2Proof.Machine
end

