-- ==== Sys2Proof/Laws/Ops.lean ====
section
/-! SUPPORT. What each shared operation can do, said once: entering the fault state, the stages of
ENCODE_LINE, the conditions of a hold, and the placing of a command. -/

namespace Sys2Proof.Machine

/-! ## raiseError (60_exceptions.md R203) -/

/-- Everything `error(code)` can do: nothing in the fault state, and otherwise enter it. -/
theorem raiseError_cases (kind : ErrorKind) (s : State) :
    (s.fault = true ∧ raiseError kind s = s) ∨
      (s.fault = false ∧
        raiseError kind s = { s with fault := true, errCode := errorCode kind }) := by
  unfold raiseError
  split
  · exact .inl ⟨by assumption, rfl⟩
  · exact .inr ⟨by simpa using ‹¬s.fault = true›, rfl⟩

theorem raiseError_of_fault {s : State} (kind : ErrorKind) (h : s.fault = true) :
    raiseError kind s = s := if_pos h

theorem raiseError_of_noFault {s : State} (kind : ErrorKind) (h : s.fault = false) :
    raiseError kind s = { s with fault := true, errCode := errorCode kind } :=
  if_neg (by simp [h])

@[simp] theorem raiseError_fault (kind : ErrorKind) (s : State) :
    (raiseError kind s).fault = true := by
  rcases raiseError_cases kind s with ⟨h, e⟩ | ⟨_, e⟩
  · rw [e, h]
  · rw [e]

theorem raiseError_errCode (kind : ErrorKind) (s : State) :
    (raiseError kind s).errCode = if s.fault then s.errCode else errorCode kind := by
  rcases raiseError_cases kind s with ⟨h, e⟩ | ⟨h, e⟩ <;> simp [e, h]

@[simp] theorem raiseError_seed (kind : ErrorKind) (s : State) :
    (raiseError kind s).seed = s.seed := by
  rcases raiseError_cases kind s with ⟨_, e⟩ | ⟨_, e⟩ <;> rw [e]

@[simp] theorem raiseError_cursor (kind : ErrorKind) (s : State) :
    (raiseError kind s).cursor = s.cursor := by
  rcases raiseError_cases kind s with ⟨_, e⟩ | ⟨_, e⟩ <;> rw [e]

@[simp] theorem raiseError_bw (kind : ErrorKind) (s : State) :
    (raiseError kind s).bw = s.bw := by
  rcases raiseError_cases kind s with ⟨_, e⟩ | ⟨_, e⟩ <;> rw [e]

@[simp] theorem raiseError_lh (kind : ErrorKind) (s : State) :
    (raiseError kind s).lh = s.lh := by
  rcases raiseError_cases kind s with ⟨_, e⟩ | ⟨_, e⟩ <;> rw [e]

@[simp] theorem raiseError_configured (kind : ErrorKind) (s : State) :
    (raiseError kind s).configured = s.configured := by
  rcases raiseError_cases kind s with ⟨_, e⟩ | ⟨_, e⟩ <;> rw [e]

@[simp] theorem raiseError_cmd (kind : ErrorKind) (s : State) :
    (raiseError kind s).cmd = s.cmd := by
  rcases raiseError_cases kind s with ⟨_, e⟩ | ⟨_, e⟩ <;> rw [e]

@[simp] theorem raiseError_payload (kind : ErrorKind) (s : State) :
    (raiseError kind s).payload = s.payload := by
  rcases raiseError_cases kind s with ⟨_, e⟩ | ⟨_, e⟩ <;> rw [e]

@[simp] theorem raiseError_pixel (kind : ErrorKind) (s : State) :
    (raiseError kind s).pixel = s.pixel := by
  rcases raiseError_cases kind s with ⟨_, e⟩ | ⟨_, e⟩ <;> rw [e]

@[simp] theorem raiseError_pixelAccept (kind : ErrorKind) (s : State) :
    (raiseError kind s).pixelAccept = s.pixelAccept := by
  rcases raiseError_cases kind s with ⟨_, e⟩ | ⟨_, e⟩ <;> rw [e]

/-! ## The stages of ENCODE_LINE -/

/-- Everything a taken ENCODE_LINE can do (45_commands.md R140): discarded, rejected or encoded. -/
theorem performLine_cases (cfg : Config) (bytes : List Byte) (s : State) :
    (s.fault = true ∧ performLine cfg bytes s = s) ∨
      (s.fault = false ∧ s.configured = false ∧
        performLine cfg bytes s = raiseError .configurationError s) ∨
      (encodes s = true ∧ performLine cfg bytes s = completeLine cfg bytes s) := by
  unfold performLine encodes
  cases hf : s.fault <;> cases hc : s.configured <;> simp

theorem encodes_iff (s : State) : encodes s = true ↔ s.configured = true ∧ s.fault = false := by
  simp [encodes]

/-- When an ENCODE_LINE has a step (20_memory.md R53). -/
theorem lineReady_iff (n : BitVec 16) (s : State) :
    lineReady n s = true ↔
      n.toNat ≤ s.payload.length ∧ (encodes s = true → s.pixelAccept = true) := by
  simp only [lineReady, Bool.and_eq_true, decide_eq_true_eq, Bool.or_eq_true, Bool.not_eq_true']
  cases encodes s <;> simp

/-! ## Placing a command (log 5) -/

/-- The padded queue is long enough, and it is the old queue where that was long enough already. -/
theorem padPayload_length (n : Nat) (queue : List Byte) :
    (padPayload n queue).length = max n queue.length := by
  induction n generalizing queue with
  | zero => simp [padPayload]
  | succ n ih =>
    cases queue with
    | nil => simp [padPayload, ih]
    | cons b queue => simp [padPayload, ih]

theorem padPayload_of_le {n : Nat} {queue : List Byte} (h : n ≤ queue.length) :
    padPayload n queue = queue := by
  induction n generalizing queue with
  | zero => rfl
  | succ n ih =>
    cases queue with
    | nil => simp at h
    | cons b queue => simp [padPayload, ih (by simpa using h)]

/-! ## The host's moves -/

/-- No move of the host but a hardware reset writes an element of the block's own state
(10_state.md R20, R35). -/
theorem hostAct_cases (a : HostAction) (s : State) :
    hostAct a s = hardwareReset s ∨
      ∃ cmd payload accepts, hostAct a s =
        { s with cmd := cmd, payload := payload, pixelAccept := accepts } := by
  cases a with
  | hardwareReset => exact .inl rfl
  | offer w => exact .inr ⟨_, _, _, rfl⟩
  | supply bytes => exact .inr ⟨_, _, _, rfl⟩
  | setAccept accepts => exact .inr ⟨_, _, _, rfl⟩
  | readStatus => exact .inr ⟨s.cmd, s.payload, s.pixelAccept, rfl⟩

end Sys2Proof.Machine
end

