-- ==== Sys2Proof/Laws/PerInstr.lean ====
section
/-! SUPPORT. A statement about every command as syntax, with one lemma per constructor: the word of a
well-formed command matches its own row of the opcode map and no other (30_encoding.md R65). -/

namespace Sys2Proof.Laws.RowMatch

/-- The encoded word of a well-formed command matches exactly the row of its mnemonic (R65, R66). -/
def Statement (i : Instr) : Prop :=
  i.wellFormed = true →
    match i with
    | .init _ _ => matchesInit (encode i) = true ∧ matchesEncodeLine (encode i) = false
    | .encodeLine _ => matchesInit (encode i) = false ∧ matchesEncodeLine (encode i) = true
    | .illegal _ => matchesInit (encode i) = false ∧ matchesEncodeLine (encode i) = false

theorem init (bw lh : BitVec 12) : Statement (.init bw lh) := by
  intro _
  constructor
  · rw [matchesInit, beq_iff_eq]
    apply BitVec.eq_of_getLsbD_eq
    intro k hk
    rw [BitVec.getLsbD_and, encode_init_getLsbD]
    interval_cases k <;> simp
  · rw [matchesEncodeLine, beq_eq_false_iff_ne]
    intro h
    have hbit := congrArg (fun w : Word => w.getLsbD 28) h
    rw [BitVec.getLsbD_and, encode_init_getLsbD, if_neg (by decide), if_neg (by decide)] at hbit
    exact absurd hbit (by decide)

theorem encodeLine (n : BitVec 16) : Statement (.encodeLine n) := by
  intro _
  constructor
  · rw [matchesInit, beq_eq_false_iff_ne]
    intro h
    have hbit := congrArg (fun w : Word => w.getLsbD 28) h
    rw [BitVec.getLsbD_and, encode_encodeLine_getLsbD, if_neg (by decide)] at hbit
    exact absurd hbit (by decide)
  · rw [matchesEncodeLine, beq_iff_eq]
    apply BitVec.eq_of_getLsbD_eq
    intro k hk
    rw [BitVec.getLsbD_and, encode_encodeLine_getLsbD]
    interval_cases k <;> simp

theorem illegal (w : Word) : Statement (.illegal w) := by
  intro h
  simpa [Instr.wellFormed, encode] using h

end Sys2Proof.Laws.RowMatch
end

