-- ==== Sys2Proof/Laws/Stages.lean ====
section
/-! SUPPORT. The lengths and shapes of the stages of ENCODE_LINE: unpack, whiten, frame, rasterize. -/

namespace Sys2Proof.Machine

/-! ## Bits -/

@[simp] theorem bitsMsbFirst_length {width : Nat} (x : BitVec width) :
    (bitsMsbFirst x).length = width := by simp [bitsMsbFirst]

theorem bitsMsbFirst_getElem? {width : Nat} (x : BitVec width) {i : Nat} (h : i < width) :
    (bitsMsbFirst x)[i]? = some (x.getLsbD (width - 1 - i)) := by
  simp [bitsMsbFirst, h]

@[simp] theorem unpack_nil : unpack [] = [] := rfl

@[simp] theorem unpack_cons (b : Byte) (bytes : List Byte) :
    unpack (b :: bytes) = bitsMsbFirst b ++ unpack bytes := rfl

@[simp] theorem unpack_append (xs ys : List Byte) : unpack (xs ++ ys) = unpack xs ++ unpack ys := by
  simp [unpack]

/-! ## Whitener -/

theorem lcgNext_lt {cfg : Config} (h : 0 < cfg.lcgM) (s : Nat) : lcgNext cfg s < cfg.lcgM :=
  Nat.mod_lt _ h

@[simp] theorem whiten_nil (cfg : Config) (s : Nat) : whiten cfg s [] = (s, []) := rfl

@[simp] theorem whiten_cons (cfg : Config) (s : Nat) (b : Bit) (p : List Bit) :
    whiten cfg s (b :: p) =
      ((whiten cfg (lcgNext cfg s) p).1,
        Bool.xor b (whiteningBit (lcgNext cfg s)) :: (whiten cfg (lcgNext cfg s) p).2) := rfl

/-- Unless no bit is whitened, the final seed is a value the generator yields (40_whitener.md R80). -/
theorem whiten_seed_lt {cfg : Config} (h : 0 < cfg.lcgM) (s : Nat) (p : List Bit) (hp : p ≠ []) :
    (whiten cfg s p).1 < cfg.lcgM := by
  induction p generalizing s with
  | nil => exact absurd rfl hp
  | cons b p ih =>
    cases p with
    | nil => exact lcgNext_lt h s
    | cons c p => exact ih (lcgNext cfg s) (by simp)

/-! ## Framer and rasterizer -/

@[simp] theorem stepEntry_length (cfg : Config) (cursor : Fin 2) :
    (stepEntry cfg cursor).length = 2 := by simp [stepEntry]

@[simp] theorem rasterRow_nil (bw : Nat) : rasterRow [] bw = [] := rfl

@[simp] theorem rasterRow_cons (b : Bit) (f : List Bit) (bw : Nat) :
    rasterRow (b :: f) bw = List.replicate bw b ++ rasterRow f bw := rfl

@[simp] theorem rasterRow_length (f : List Bit) (bw : Nat) :
    (rasterRow f bw).length = f.length * bw := by
  induction f with
  | nil => simp
  | cons b f ih => simp [ih, Nat.succ_mul, Nat.add_comm]

@[simp] theorem rasterize_height (f : List Bit) (bw lh : Nat) : (rasterize f bw lh).height = lh := rfl

@[simp] theorem rasterize_width (f : List Bit) (bw lh : Nat) :
    (rasterize f bw lh).width = f.length * bw := rfl

@[simp] theorem rasterize_rows (f : List Bit) (bw lh : Nat) :
    (rasterize f bw lh).rows = List.replicate lh (rasterRow f bw) := rfl

end Sys2Proof.Machine
end

