-- ==== Sys2Proof/Laws/Step.lean ====
section
/-! SUPPORT. What a step of the block can do, said once, for any constants; the machine's own step is
this one at the reference constants. -/

namespace Sys2Proof.Machine

/-- The ways in which the block, in state `s` and with constants `cfg`, can come to state `t` in one
step (45_commands.md R140). -/
inductive StepTo (cfg : Config) (s : State) : State → Prop where
  /-- The `CMD` queue is empty: the block is idle (20_memory.md R41). -/
  | idle (h : nextCommand s = none) : StepTo cfg s s
  /-- A successful INIT (45_commands.md R141). -/
  | construct (bw lh : BitVec 12) (h : nextCommand s = some (.init bw lh))
      (hlegal : legalGeometry bw lh = true) : StepTo cfg s (construct cfg bw lh (takeCommand s))
  /-- An INIT with degenerate geometry (60_exceptions.md R206). -/
  | failConstruction (bw lh : BitVec 12) (h : nextCommand s = some (.init bw lh))
      (hlegal : legalGeometry bw lh = false) : StepTo cfg s (failConstruction (takeCommand s))
  /-- An ENCODE_LINE that holds (20_memory.md R53). -/
  | hold (n : BitVec 16) (h : nextCommand s = some (.encodeLine n)) (hheld : lineReady n s = false) :
      StepTo cfg s s
  /-- An ENCODE_LINE discarded in the fault state (60_exceptions.md R208 (b)). -/
  | discard (n : BitVec 16) (h : nextCommand s = some (.encodeLine n))
      (hready : lineReady n s = true) (hfault : s.fault = true) :
      StepTo cfg s (takeBytes n (takeCommand s))
  /-- An ENCODE_LINE before a successful INIT (60_exceptions.md R208 (a)). -/
  | reject (n : BitVec 16) (h : nextCommand s = some (.encodeLine n))
      (hready : lineReady n s = true) (hfault : s.fault = false) (hconf : s.configured = false) :
      StepTo cfg s (raiseError .configurationError (takeBytes n (takeCommand s)))
  /-- An ENCODE_LINE that completes (45_commands.md R143). -/
  | complete (n : BitVec 16) (h : nextCommand s = some (.encodeLine n))
      (hready : lineReady n s = true) (henc : encodes s = true) :
      StepTo cfg s (completeLine cfg (lineBytes n s) (takeBytes n (takeCommand s)))
  /-- An illegal word (60_exceptions.md R207). -/
  | illegal (w : Word) (h : nextCommand s = some (.illegal w)) :
      StepTo cfg s (raiseError .illegalCommand (takeCommand s))

/-- Everything a step can do, for any constants. -/
theorem stepWith_cases {cfg : Config} {s t : State} (h : stepWith cfg s = .next t) :
    StepTo cfg s t := by
  unfold stepWith at h
  cases hc : nextCommand s with
  | none =>
    simp only [hc] at h
    cases h
    exact .idle hc
  | some i =>
    simp only [hc] at h
    cases i with
    | init bw lh =>
      simp only [execWith, execInitWith] at h
      cases hl : legalGeometry bw lh <;> simp only [hl] at h <;> cases h
      · exact .failConstruction bw lh hc hl
      · exact .construct bw lh hc hl
    | encodeLine n =>
      simp only [execWith, execEncodeLineWith] at h
      cases hr : lineReady n s <;> simp only [hr] at h <;> cases h
      · exact .hold n hc hr
      · rcases performLine_cases cfg (lineBytes n s) (takeBytes n (takeCommand s)) with
          ⟨hf, e⟩ | ⟨hf, hn, e⟩ | ⟨he, e⟩ <;> simp only [e]
        · exact .discard n hc hr hf
        · exact .reject n hc hr hf hn
        · exact .complete n hc hr he
    | illegal w =>
      simp only [execWith, execIllegal] at h
      cases h
      exact .illegal w hc

/-- The machine's own step is the step at the constants of 10_state.md R30, arm by arm. -/
theorem step_eq_stepWith (s : State) : step s = stepWith Config.reference s := by
  unfold step stepWith
  cases nextCommand s with
  | none => rfl
  | some i => cases i <;> rfl

/-- Everything a step of the machine can do. -/
theorem step_cases {s t : State} (h : step s = .next t) : StepTo Config.reference s t :=
  stepWith_cases (step_eq_stepWith s ▸ h)

/-- A run of the machine is a run at the constants of 10_state.md R30. -/
theorem core_run_eq_runWith (k : Nat) (s : State) :
    Sys2Proof.core.run k s = runWith Config.reference k s := by
  induction k generalizing s with
  | zero => rfl
  | succ k ih =>
    have hstep : Sys2Proof.core.step s = stepWith Config.reference s := step_eq_stepWith s
    simp only [Host.Core.run, runWith, hstep]
    cases stepWith Config.reference s with
    | next t => exact ih t
    | fault r => rfl
    | refused r => rfl

end Sys2Proof.Machine
end

