-- ==== Sys2Proof/Tests/Slice0.lean ====
section
/-! SUPPORT. The model's own tests. Expected values are those of spec/95_test_vectors.md (its vector or
program is named) or of the rule named; none is the model's own answer. The last part shows, for each
statement that has hypotheses, values that meet them. -/

namespace Sys2Proof.Machine.Tests

/-! ## Helpers -/

/-- A block configured for 1 × 1 pixels per bit, right after INIT, with words and bytes queued. -/
def fresh (words : List Word) (bytes : List Byte) : State :=
  { State.reset with bw := 1#12, lh := 1#12, configured := true, cmd := words, payload := bytes }

/-- A block in the fault state, with words and bytes queued. -/
def faulted (code : BitVec 3) (words : List Word) (bytes : List Byte) : State :=
  { State.reset with fault := true, errCode := code, cmd := words, payload := bytes }

/-- The state after one step; the old state where the machine stopped. -/
def after (s : State) : State :=
  match step s with
  | .next t => t
  | .fault _ => s
  | .refused _ => s

/-- A bit sequence from a number's binary digits, leftmost first. -/
def bits (width value : Nat) : List Bit := bitsMsbFirst (BitVec.ofNat width value)

/-! ## Well-formedness: each check refuses an ill-formed term -/

theorem test_illegal_with_init_word_refused : (Instr.illegal 0x10001001#32).wellFormed = false := by
  decide

theorem test_illegal_with_line_word_refused : (Instr.illegal 0x20000010#32).wellFormed = false := by
  decide

theorem test_wellFormed_accepts :
    (Instr.illegal 0x11001001#32).wellFormed = true ∧ (Instr.init 0 0).wellFormed = true ∧
      (Instr.encodeLine 0).wellFormed = true := by decide

/-! ## Decoding, words written out from 30_encoding.md R62, R63 and V1 -/

theorem test_decode_init_bits :
    decode 0b00010000000000001010000000001010#32 = .init 10 10 := by decide

theorem test_decode_init_asymmetric_bits :
    decode 0b00010000100000000001010000000011#32 = .init 2049 1027 := by decide

theorem test_decode_encodeLine_bits :
    decode 0b00100000000000001000000000000001#32 = .encodeLine 32769 := by decide

theorem test_decode_illegal_bits :
    decode 0b00101000000000000000000000000001#32 = .illegal 0x28000001#32 := by decide

/-- V1. -/
theorem test_decode_vectors :
    [0x10000005#32, 0x10001000#32, 0x11001001#32, 0x20000000#32, 0x2000FFFF#32, 0x20010000#32,
      0x00000000#32, 0xF0000000#32].map decode =
    [.init 0 5, .init 1 0, .illegal 0x11001001#32, .encodeLine 0, .encodeLine 65535,
      .illegal 0x20010000#32, .illegal 0x00000000#32, .illegal 0xF0000000#32] := by decide

/-- P1: the command bytes `10 00 10 01 20 00 00 01`. -/
theorem test_decode_bytes_P1 :
    decodeBytes [0x10#8, 0x00#8, 0x10#8, 0x01#8, 0x20#8, 0x00#8, 0x00#8, 0x01#8] =
      .ok (.init 1 1, [0x20#8, 0x00#8, 0x00#8, 0x01#8]) := by rfl

theorem test_table_word : decodeTableWord 32 0x10FFFFFF = some (.init 4095 4095) := by decide

/-! ## The stages -/

/-- V2. -/
theorem test_lcgNext_vectors :
    [0, 1, 3735928559, 1588444912, 1934915413, 2147483646, 2147483647, 4294967295].map
        (lcgNext Config.reference) =
      [12345, 1103527590, 242124325, 242124325, 1934915413, 1043980747, 12345, 1103527590] := by
  decide

/-- V3: the two-byte line, and the stream that continues. -/
theorem test_whiten_vectors :
    whiten Config.reference 3735928559 (bits 16 0b1010010100000001) =
        (893207908, bits 16 0b0100111111000101) ∧
      whiten Config.reference 1093565796 (bits 8 0) = (893207908, bits 8 0b11000100) := by decide

/-- V4. -/
theorem test_unpack_vector : unpack [0xA5#8, 0x01#8] = bits 16 0b1010010100000001 := by decide

/-- V5, with `STEP1 = 10`. -/
theorem test_frame_vectors :
    frame Config.reference 0 (bits 8 0b11101010) = bits 22 0b0001110111101010111000 ∧
      frame (Config.withStep1 0b10#2) 1 (bits 8 0b00111011) =
        bits 22 0b0001111000111011111000 := by decide

/-- V6. -/
theorem test_rasterize_vectors :
    (rasterize (bits 2 0b01) 2 3).rows = List.replicate 3 (bits 4 0b0011) ∧
      (rasterize (bits 14 0b00011101111000) 3 1).rows =
        [bits 42 0b000000000111111111000111111111111000000000] := by decide

/-! ## One step of each command -/

/-- V7, first row, and the `STATUS` of the rule's example. -/
theorem test_init_from_reset :
    after (State.reset.withFetchWord 32 0x1000A00A) =
        { State.reset with bw := 10#12, lh := 10#12, configured := true } ∧
      statusWord (after (State.reset.withFetchWord 32 0x1000A00A)) = 0x21#32 := by decide

/-- V7, fourth row: a failed INIT keeps geometry, seed and cursor. -/
theorem test_init_zero_height :
    after { fresh [0x10001000#32] [] with seed := 1093565796#32, cursor := 1 } =
      { fresh [] [] with
        seed := 1093565796#32, cursor := 1, configured := false, fault := true, errCode := 1#3 } := by
  decide

/-- V8, fourth row: cursor 1, the default step code, the stream continued. -/
theorem test_encode_line_continues :
    after { fresh [0x20000001#32] [0xFF#8] with seed := 1093565796#32, cursor := 1 } =
      { fresh [] [] with
        seed := 893207908#32, cursor := 0
        pixel := [⟨1, 22, [bits 22 0b0001111000111011111000]⟩] } := by decide

/-- V8, sixth row: in the fault state the byte is taken and nothing is recorded. -/
theorem test_encode_line_discarded :
    after (faulted 2#3 [0x20000001#32] [0x55#8, 0x66#8]) = faulted 2#3 [] [0x66#8] ∧
      statusWord (faulted 2#3 [] []) = 0x2A#32 := by decide

/-- V9, first and second rows. -/
theorem test_illegal_records_first_only :
    after { State.reset with cmd := [0x30000000#32], payload := [0x11#8] } =
        faulted 2#3 [] [0x11#8] ∧
      after (faulted 1#3 [0x00000000#32] []) = faulted 1#3 [] [] := by decide

/-- 20_memory.md R53: one byte short of two, the block holds. -/
theorem test_encode_line_holds :
    after (fresh [0x20000002#32] [0x12#8]) = fresh [0x20000002#32] [0x12#8] := by decide

/-- R92 with V8, last row: 16 zero bytes leave the seed of 128 steps. -/
theorem test_seed_after_128_bits :
    (after (fresh [0x20000010#32] (List.replicate 16 0#8))).seed = 937904488#32 := by
  decide +kernel

/-- R241. -/
theorem test_reset_status : statusWord State.reset = 0x20#32 := by decide

/-! ## Assembler and host software -/

/-- R68, R70: a line of text, in lower case, with a comment. -/
theorem test_parse_line :
    parseLine ['i', 'n', 'i', 't', ' ', '0', 'x', 'A', ',', ' ', '1', '0', ' ', ';', 'x'] =
      .ok (some (.init 10 10)) := by rfl

theorem test_operand_out_of_range :
    assembleStmt (.init 4096 1) = .error .operandRange := by rfl

/-- P2: `LINE 0xFF` after `INIT 2, 2`. -/
theorem test_assemble_P2 :
    assemble [.init 2 2, .line [255]] = .ok ([0x10002002#32, 0x20000001#32], [0xFF#8]) := by rfl

/-- V10. -/
theorem test_padding_vectors :
    [(5, 11), (0, 11), (10, 11), (11, 11), (22, 11)].map (fun p => neededPadding p.1 p.2) =
        [6, 11, 1, 11, 11] ∧
      pad 6 = .ok [0#8, 0#8, 0#8, 0#8, 0#8, 6#8] ∧ pad 256 = .error .rangeError := by
  exact ⟨by decide, by rfl, by rfl⟩

/-! ## Witnesses: values that meet the hypotheses of the statements -/

theorem test_witness_DecodeEncodeRoundTrip :
    (Instr.init 0 4095).wellFormed = true ∧ (Instr.encodeLine 65535).wellFormed = true ∧
      (Instr.illegal 0xFFFFFFFF#32).wellFormed = true := by decide

theorem test_witness_IllegalWordsAndCounts :
    decode 0x0FFFFFFF#32 = .illegal 0x0FFFFFFF#32 ∧ decode 0x30000000#32 = .illegal 0x30000000#32 ∧
      decode 0x11000000#32 = .illegal 0x11000000#32 ∧
      decode 0x20010000#32 = .illegal 0x20010000#32 := by decide

theorem test_witness_CommandBytesReadBack : [0#8, 0#8, 0#8].length < 4 := by decide

theorem test_witness_StepRunsDecodedCommand :
    (fresh [0x20000000#32] []).cmd = 0x20000000#32 :: [] ∧ (Instr.encodeLine 0).wellFormed = true ∧
      (fresh [0x20000000#32] []).cmd = encode (.encodeLine 0) :: [] ∧ (fresh [] []).cmd = [] := by
  decide

theorem test_witness_EnabledStepTakesItsWord :
    enabled (fresh [0x20000001#32] [0#8]) = true ∧ enabled (fresh [0x20000001#32] []) = false ∧
      enabled (fresh [] [0#8]) = false := by decide

theorem test_witness_StepIsAtomicOnQueues :
    step (fresh [0x20000001#32] [0#8]) = .next (after (fresh [0x20000001#32] [0#8])) ∧
      after (fresh [0x20000001#32] [0#8]) ≠ fresh [0x20000001#32] [0#8] :=
  ⟨rfl, by decide⟩

theorem test_witness_InitResult :
    (1#12 ≠ 0#12 ∧ 4095#12 ≠ 0#12) ∧ (0#12 = 0#12 ∨ 1#12 = 0#12) := by decide

theorem test_witness_InitErasesHistory :
    nextCommand (faulted 2#3 [0x10001FFF#32] [1#8]) = some (.init 1 4095) ∧
      legalGeometry 1 4095 = true ∧
      (fresh [0x10001FFF#32] [1#8]).cmd = (faulted 2#3 [0x10001FFF#32] [1#8]).cmd ∧
      (fresh [0x10001FFF#32] [1#8]).payload = (faulted 2#3 [0x10001FFF#32] [1#8]).payload ∧
      (fresh [0x10001FFF#32] [1#8]).pixelAccept =
        (faulted 2#3 [0x10001FFF#32] [1#8]).pixelAccept := by decide

theorem test_witness_EncodeLineResult :
    (fresh [] [7#8]).configured = true ∧ (fresh [] [7#8]).fault = false ∧
      (1#16).toNat ≤ (fresh [] [7#8]).payload.length ∧ (0#16).toNat ≤ (fresh [] []).payload.length ∧
      (fresh [] [7#8]).pixelAccept = true := by decide

theorem test_witness_EncodeLineClosedForm :
    (fresh [] [7#8]).configured = true ∧ (fresh [] [7#8]).fault = false ∧
      (1#16).toNat ≤ (fresh [] [7#8]).payload.length ∧ (fresh [] [7#8]).pixelAccept = true ∧
      0 < (fresh [] [7#8]).lh.toNat ∧ 21 < (14 + 8 * (1#16).toNat) * (fresh [] [7#8]).bw.toNat := by
  decide

theorem test_witness_EncodeLineRejected :
    (1#16).toNat ≤ { State.reset with payload := [1#8] }.payload.length ∧
      ({ State.reset with payload := [1#8] }.configured = false ∧
        { State.reset with payload := [1#8] }.fault = false) ∧
      (1#16).toNat ≤ (faulted 1#3 [] [1#8]).payload.length ∧ (faulted 1#3 [] [1#8]).fault = true := by
  decide

theorem test_witness_EncodeLineHolds :
    (fresh [] [1#8]).payload.length < (2#16).toNat ∧
      ({ fresh [] [1#8] with pixelAccept := false }.configured = true ∧
        { fresh [] [1#8] with pixelAccept := false }.fault = false ∧
        { fresh [] [1#8] with pixelAccept := false }.pixelAccept = false) := by decide

theorem test_witness_LinesAreOneStream :
    Config.reference.Legal ∧ (∀ bytes ∈ [[0xFF#8], []], bytes.length < 65536) ∧
      (fresh [0x20000001#32, 0x20000000#32, 0#32] [0xFF#8, 1#8]).configured = true ∧
      (fresh [0x20000001#32, 0x20000000#32, 0#32] [0xFF#8, 1#8]).fault = false ∧
      (fresh [0x20000001#32, 0x20000000#32, 0#32] [0xFF#8, 1#8]).pixelAccept = true ∧
      (fresh [0x20000001#32, 0x20000000#32, 0#32] [0xFF#8, 1#8]).cmd =
        [[0xFF#8], []].map (fun bytes => encode (.encodeLine (BitVec.ofNat 16 bytes.length))) ++
          [0#32] ∧
      (fresh [0x20000001#32, 0x20000000#32, 0#32] [0xFF#8, 1#8]).payload =
        [[0xFF#8], []].flatten ++ [1#8] ∧
      [[0xFF#8], []][1]? = some [] := by decide

theorem test_witness_PayloadValuesReachOnlyPixels :
    SameButData (fresh [0x20000001#32] [0#8]) (fresh [0x20000001#32] [0xFF#8]) ∧
      runWith Config.reference 1 (fresh [0x20000001#32] [0#8]) =
        .next (after (fresh [0x20000001#32] [0#8])) :=
  ⟨⟨by decide, by decide, by decide⟩, rfl⟩

theorem test_witness_TileDimensionsBounded :
    exec (.encodeLine 0) (fresh [0x20000000#32] []) = .next (after (fresh [0x20000000#32] [])) ∧
      (after (fresh [0x20000000#32] [])).pixel =
        (fresh [0x20000000#32] []).pixel ++ [⟨1, 14, [bits 14 0b00011101111000]⟩] :=
  ⟨rfl, by decide⟩

theorem test_witness_ErrorEntersFaultStateOnce :
    (fresh [] []).fault = false ∧ (faulted 2#3 [] []).fault = true := by decide

theorem test_witness_OnlyInitLeavesFaultState :
    (faulted 2#3 [0x10001001#32] []).fault = true ∧
      step (faulted 2#3 [0x10001001#32] []) = .next (after (faulted 2#3 [0x10001001#32] [])) ∧
      (after (faulted 2#3 [0x10001001#32] [])).fault = false ∧
      step (faulted 2#3 [0x10000005#32] []) = .next (after (faulted 2#3 [0x10000005#32] [])) ∧
      (after (faulted 2#3 [0x10000005#32] [])).fault = true ∧
      (hostAct .hardwareReset (faulted 2#3 [] [])).fault = false :=
  ⟨by decide, rfl, by decide, rfl, by decide, by decide⟩

theorem test_witness_ComputationalStateCommits :
    step (fresh [0x20000000#32] []) = .next (after (fresh [0x20000000#32] [])) ∧
      (after (fresh [0x20000000#32] [])).cursor = 1 :=
  ⟨rfl, by decide⟩

theorem test_witness_OnlyInitWritesConfiguration :
    step (fresh [0x10001000#32] []) = .next (after (fresh [0x10001000#32] [])) ∧
      (after (fresh [0x10001000#32] [])).configured ≠ (fresh [0x10001000#32] []).configured ∧
      step (fresh [0x10002001#32] []) = .next (after (fresh [0x10002001#32] [])) ∧
      (after (fresh [0x10002001#32] [])).bw ≠ (fresh [0x10002001#32] []).bw :=
  ⟨rfl, by decide, rfl, by decide⟩

theorem test_witness_ResetState :
    hardwareReset (fresh [0#32] [1#8]) = hardwareReset (fresh [0#32] [1#8]) ∧
      State.reset = State.reset := ⟨rfl, rfl⟩

theorem test_witness_ResetAndInitAgree :
    1#12 ≠ 0#12 ∧ 4095#12 ≠ 0#12 ∧
      exec (.init 1 4095) (fresh [0x10001FFF#32] []) = .next (after (fresh [0x10001FFF#32] [])) :=
  ⟨by decide, by decide, rfl⟩

theorem test_witness_GoodKeptByStep :
    Good (fresh [0x20000001#32] [0#8]) ∧
      step (fresh [0x20000001#32] [0#8]) = .next (after (fresh [0x20000001#32] [0#8])) ∧
      Good (faulted 1#3 [0#32] []) ∧
      step (faulted 1#3 [0#32] []) = .next (after (faulted 1#3 [0#32] [])) :=
  ⟨by decide, rfl, by decide, rfl⟩

theorem test_witness_GoodKeptByHost :
    Good (faulted 1#3 [0#32] [1#8]) ∧ Good (fresh [] []) := by decide

theorem test_witness_ReachableStatesGood :
    Reachable (after (hostAct (.offer 0x1000A00A#32) State.reset)) :=
  .block (.host (.offer 0x1000A00A#32) .reset) rfl

theorem test_witness_StreamHistoryKeptByStep :
    Config.reference.Legal ∧
      (StreamHistory.mk 8 1).Describes Config.reference
        { fresh [0x20000001#32] [0#8] with seed := 1093565796#32, cursor := 1 } ∧
      stepWith Config.reference
          { fresh [0x20000001#32] [0#8] with seed := 1093565796#32, cursor := 1 } =
        .next (after { fresh [0x20000001#32] [0#8] with seed := 1093565796#32, cursor := 1 }) :=
  ⟨by decide, by decide, rfl⟩

theorem test_witness_WhitenClosedForm : [true, false][1]? = some false := by decide

theorem test_witness_WhitenSelfInverse :
    whiten Config.reference 3735928559 (bits 8 0) = (1093565796, bits 8 0b11101010) := by decide

theorem test_witness_SeedReductionIsInvisible : [true] ≠ [] := by decide

/-- The two readings of R88: the seed as it stands, and reduced to 1588444912 first. -/
theorem test_witness_ReducedSeedsGiveSameRuns :
    (1588444912#32).toNat % Config.reference.lcgM =
        Config.reference.seed0.toNat % Config.reference.lcgM ∧
      (1588444912#32).toNat % Config.reference.lcgM =
        State.reset.seed.toNat % Config.reference.lcgM ∧
      1588444912#32 ≠ State.reset.seed := by decide

theorem test_witness_GeneratorIsBijection :
    0 < Config.reference.lcgM ∧ 2147483646 < Config.reference.lcgM := by decide

theorem test_witness_GeneratorFixedPoint :
    1934915413 < Config.reference.lcgM ∧ 2147483646 < Config.reference.lcgM := by decide

theorem test_witness_GeneratorPeriod :
    (0 < Config.reference.lcgM ∧ 0 ≠ 1934915413) ∧
      (0 < 1 ∧ 1 < 2147483646 ∧ 2147483646 - 1 < 2147483646) := by decide

theorem test_witness_UnpackMsbFirst : [0xA5#8][0]? = some 0xA5#8 ∧ 7 < 8 := by decide

theorem test_witness_FramedLinePositions : 5 < 6 ∧ 1 < 2 ∧ 0 < [true].length := by decide

theorem test_witness_ConsecutiveLinesDiffer :
    0b00#2 ≠ 0b01#2 ∧ (6 = 6 ∨ 6 = 7) ∧ (7 = 6 ∨ 7 = 7) := by decide

theorem test_witness_RasterizedPixels :
    (0 < 1 ∧ 3 < [true, false].length * 2) ∧ (1 ≤ 1 ∨ [true, false].length * 2 ≤ 0) ∧
      (1 ≤ 0 ∨ [true, false].length * 2 ≤ 4) := by decide

theorem test_witness_WireOrderIsRowMajor :
    (Tile.mk 2 2 [[true, false], [false, true]]).WellShaped ∧ 3 < 2 * 2 := by decide

theorem test_witness_AssemblerWords :
    (4096 ≤ 4096 ∨ 4096 ≤ 1) ∧ (4096 ≤ 1 ∨ 4096 ≤ 4096) ∧ 65536 ≤ 65536 ∧ 2 ^ 32 ≤ 4294967296 ∧
      ∃ b ∈ [255, 256], 256 ≤ b := by decide

theorem test_witness_NeededPaddingRange : 1 ≤ 1 ∧ 1 ∣ 0 ∧ 11 ∣ 22 := by decide

theorem test_witness_PaddingBytes : 255 < 256 ∧ (1 ≤ 1 ∧ 1 ≤ 255) ∧ (1 ≤ 255 ∧ 255 ≤ 255) := by decide

/-- Each clause at its boundaries: `k = 1`, `k = n − 1`, `n = 255`; `k = 0`, `k = n`, `n = 256`. -/
theorem test_witness_FecContract :
    (0 < messageSize ⟨2, 1⟩ ∧ messageSize ⟨2, 1⟩ < 2 ∧ 2 ≤ 255) ∧
      (0 < messageSize ⟨255, 1⟩ ∧ messageSize ⟨255, 1⟩ < 255 ∧ 255 ≤ 255) ∧
      [7#8].length = messageSize ⟨2, 1⟩ ∧ ([] : List Byte).length ≠ messageSize ⟨2, 1⟩ ∧
      messageSize ⟨16, 16⟩ = 0 ∧ messageSize ⟨16, 17⟩ = 0 ∧ 16 ≤ messageSize ⟨16, 0⟩ ∧
      255 < (CodecParameters.mk 256 5).blockSize := by decide

/-- R170 and 90_conflicts.md C4: the FEC capability rejects `k ≥ n`, though the message has `k` bytes. -/
theorem test_fec_rejects_k_equal_n :
    fecEncode ⟨16, 0⟩ (List.replicate 16 0#8) = .error .configurationError := rfl

theorem test_witness_SegmentationComplete :
    legalParameters ⟨16, 5⟩ = true ∧ legalParameters ⟨255, 254⟩ = true ∧
      legalParameters ⟨2, 1⟩ = true ∧ legalParameters ⟨256, 5⟩ = false ∧
      legalParameters ⟨16, 0⟩ = false ∧ legalParameters ⟨16, 16⟩ = false := by decide

theorem test_witness_SlicedLinesKeepTheStream : 1 ≤ 1 := by decide

end Sys2Proof.Machine.Tests
end

section
/-! PROOFS. The scope statements: the widths of a line and a tile (00_scope.md R12), the seed register's
width and the exactness of a generator step (R13). -/

namespace Sys2Proof.Machine

/-! ## Lengths of the stages of ENCODE_LINE -/

@[simp] theorem unpack_length (bytes : List Byte) : (unpack bytes).length = 8 * bytes.length := by
  induction bytes with
  | nil => rfl
  | cons b bytes ih =>
    rw [unpack_cons, List.length_append, bitsMsbFirst_length, ih, List.length_cons]
    omega

/-- Whitening keeps the number of bits (40_whitener.md R83). -/
@[simp] theorem whiten_length (cfg : Config) (s : Nat) (p : List Bit) :
    (whiten cfg s p).2.length = p.length := by
  induction p generalizing s with
  | nil => rfl
  | cons b p ih => rw [whiten_cons, List.length_cons, List.length_cons, ih]

/-- Preamble, step code and postamble add 14 bits to the payload (41_line_framer.md R102). -/
@[simp] theorem frame_length (cfg : Config) (cursor : Fin 2) (w : List Bit) :
    (frame cfg cursor w).length = 14 + w.length := by
  simp only [frame, List.length_append, bitsMsbFirst_length, stepEntry_length]
  omega

@[simp] theorem framedLine_length (cfg : Config) (bytes : List Byte) (s : State) :
    (framedLine cfg bytes s).length = 14 + 8 * bytes.length := by
  rw [framedLine, frame_length, whitenLine, whiten_length, unpack_length]

theorem lineBytes_length {n : BitVec 16} {s : State} (h : n.toNat ≤ s.payload.length) :
    (lineBytes n s).length = n.toNat :=
  List.length_take_of_le h

@[simp] theorem lineTile_height (cfg : Config) (bytes : List Byte) (s : State) :
    (lineTile cfg bytes s).height = s.lh.toNat := rfl

@[simp] theorem lineTile_width (cfg : Config) (bytes : List Byte) (s : State) :
    (lineTile cfg bytes s).width = (14 + 8 * bytes.length) * s.bw.toNat := by
  rw [lineTile, rasterize_width, framedLine_length]

/-! ## The tile that an ENCODE_LINE emits -/

/-- What an ENCODE_LINE does to the `PIXEL` output: either it emits nothing, because it holds, is
discarded or is rejected, or it takes its `n` queued bytes and emits their tile. -/
theorem execEncodeLineWith_pixel {cfg : Config} {n : BitVec 16} {s t : State}
    (h : execEncodeLineWith cfg n s = .next t) :
    t.pixel = s.pixel ∨
      (n.toNat ≤ s.payload.length ∧
        t.pixel =
          s.pixel ++ [lineTile cfg (lineBytes n s) (takeBytes n (takeCommand s))]) := by
  unfold execEncodeLineWith at h
  split at h
  case isFalse held =>
    cases h
    exact .inl rfl
  case isTrue hready =>
    cases h
    obtain ⟨hbytes, -⟩ := (lineReady_iff n s).mp hready
    rcases performLine_cases cfg (lineBytes n s) (takeBytes n (takeCommand s)) with
      ⟨-, discarded⟩ | ⟨-, -, rejected⟩ | ⟨-, completed⟩
    · exact .inl (by simp [discarded])
    · exact .inl (by simp [rejected])
    · exact .inr ⟨hbytes, by simp [completed]⟩

/-- The tile that an ENCODE_LINE adds to the `PIXEL` output is the tile of its `n` queued bytes. -/
theorem execEncodeLineWith_emitted {cfg : Config} {n : BitVec 16} {s t : State} {tile : Tile}
    (h : execEncodeLineWith cfg n s = .next t) (hpixel : t.pixel = s.pixel ++ [tile]) :
    n.toNat ≤ s.payload.length ∧
      tile = lineTile cfg (lineBytes n s) (takeBytes n (takeCommand s)) := by
  rcases execEncodeLineWith_pixel h with silent | ⟨hbytes, emitted⟩
  · simp [silent] at hpixel
  · exact ⟨hbytes, by simpa [emitted, eq_comm] using hpixel⟩

/-- The dimensions of the tile that an ENCODE_LINE of `n` bytes emits (00_scope.md R12). -/
theorem execEncodeLineWith_tile_dimensions {cfg : Config} {n : BitVec 16} {s t : State} {tile : Tile}
    (h : execEncodeLineWith cfg n s = .next t) (hpixel : t.pixel = s.pixel ++ [tile]) :
    tile.height = s.lh.toNat ∧ tile.width = (14 + 8 * n.toNat) * s.bw.toNat := by
  obtain ⟨hbytes, rfl⟩ := execEncodeLineWith_emitted h hpixel
  simp [lineBytes_length hbytes]

/-- The greatest line length of R11 at the greatest block width of R10. -/
theorem tile_width_le (n : BitVec 16) (bw : BitVec 12) :
    (14 + 8 * n.toNat) * bw.toNat ≤ 2146983930 := by
  have hline : 14 + 8 * n.toNat ≤ 524294 := by omega
  have hbw : bw.toNat ≤ 4095 := by omega
  exact Nat.mul_le_mul hline hbw

/-! ## The width of the seed register -/

theorem reference_legal : Config.reference.Legal := by decide

/-- Every value the generator yields fits in `SEED` (00_scope.md R13). -/
theorem lcgNext_lt_two_pow {cfg : Config} (hcfg : cfg.Legal) (s : Nat) :
    lcgNext cfg s < 2 ^ 32 := by
  obtain ⟨hpos, hle⟩ := hcfg
  exact (lcgNext_lt hpos s).trans_le hle

/-- The sum that a generator step reduces, at the constants of R6, stays below `2^63` for every value
that `SEED` can hold (00_scope.md R13). -/
theorem reference_step_sum_lt (seed : BitVec 32) :
    Config.reference.lcgA * seed.toNat + Config.reference.lcgC < 2 ^ 63 := by
  have hseed : seed.toNat < 2 ^ 32 := seed.isLt
  simp only [Config.reference]
  omega

end Sys2Proof.Machine

/-! ## The statements -/

open Sys2Proof Sys2Proof.Machine

/-- Settles O20: a tile can only come from a completed line, whose dimensions are those of its `n` bytes
and of the 12-bit geometry registers. -/
theorem tileDimensionsBounded : Obligations.TileDimensionsBounded := by
  intro n s t tile hexec hpixel
  obtain ⟨hheight, hwidth⟩ :=
    execEncodeLineWith_tile_dimensions (cfg := Config.reference) hexec hpixel
  have hbound : tile.width ≤ 2146983930 := hwidth ▸ tile_width_le n s.bw
  exact ⟨hheight, hwidth, by omega, by omega, hbound, by omega, by omega⟩

/-- Settles O34: the modulus bounds every generated seed, and `LCG_A · (2^32 - 1) + LCG_C` is below
`2^63`. -/
theorem seedFitsAndProductIsExact : Obligations.SeedFitsAndProductIsExact :=
  ⟨by decide, fun seed =>
    ⟨lcgNext_lt reference_legal.1 seed.toNat, lcgNext_lt_two_pow reference_legal seed.toNat,
      reference_step_sum_lt seed⟩⟩

end

section
/-! PROOFS. The state statements of 10_state.md: the machine as the parametric block (R30), the `STATUS`
word (R27), who writes the configuration (R25, R28), and the block's invariant. -/

namespace Sys2Proof.Machine

/-! ## The machine at the reference constants -/

theorem exec_eq_execWith (i : Instr) (s : State) : exec i s = execWith Config.reference i s := by
  cases i <;> rfl

/-- The reference constants are those with `STEP1` at its default (00_scope.md R9, log 1). -/
theorem withStep1_default : Config.withStep1 0b10#2 = Config.reference := rfl

/-! ## The STATUS word -/

theorem idle_iff (s : State) : idle s = true ↔ s.cmd = [] := by simp [idle]

/-- The defined bits of the `STATUS` word (10_state.md R27); of the reserved ones nothing is said
(93_implementation_defined.md I6). -/
theorem statusWord_getLsbD (s : State) {i : Nat} (hi : i < 6) :
    (statusWord s).getLsbD i =
      if i = 0 then s.configured
      else if i = 1 then s.fault
      else if i < 5 then s.errCode.getLsbD (i - 2)
      else idle s := by
  simp only [statusWord, BitVec.getLsbD_append]
  interval_cases i <;> simp

/-! ## A failed INIT (60_exceptions.md R206) -/

@[simp] theorem failConstruction_configured (s : State) :
    (failConstruction s).configured = false := by simp [failConstruction]

@[simp] theorem failConstruction_bw (s : State) : (failConstruction s).bw = s.bw := by
  simp [failConstruction]

@[simp] theorem failConstruction_lh (s : State) : (failConstruction s).lh = s.lh := by
  simp [failConstruction]

/-! ## Who writes the configuration -/

/-- What a step does to `CONFIGURED`, `BW` and `LH` (10_state.md R25, R28): it keeps all three, or it
performs an INIT, which stores its geometry if that is legal and else only clears `CONFIGURED`. -/
theorem StepTo.configuration {cfg : Config} {s t : State} (h : StepTo cfg s t) :
    (t.configured = s.configured ∧ t.bw = s.bw ∧ t.lh = s.lh) ∨
      ∃ bw lh, nextCommand s = some (.init bw lh) ∧
        ((legalGeometry bw lh = true ∧ t.configured = true ∧ t.bw = bw ∧ t.lh = lh) ∨
          (legalGeometry bw lh = false ∧ t.configured = false ∧ t.bw = s.bw ∧ t.lh = s.lh)) := by
  cases h with
  | idle => exact .inl ⟨rfl, rfl, rfl⟩
  | construct bw lh hnext hlegal =>
    exact .inr ⟨bw, lh, hnext, .inl ⟨hlegal, rfl, rfl, rfl⟩⟩
  | failConstruction bw lh hnext hlegal =>
    exact .inr ⟨bw, lh, hnext, .inr ⟨hlegal, by simp⟩⟩
  | hold => exact .inl ⟨rfl, rfl, rfl⟩
  | discard => exact .inl ⟨rfl, rfl, rfl⟩
  | reject => exact .inl (by simp)
  | complete => exact .inl ⟨rfl, rfl, rfl⟩
  | illegal => exact .inl (by simp)

/-! ## The invariant and the operations -/

/-- The invariant speaks of no input port: taking and offering words and bytes, and the consumer's
readiness, leave it as it is. -/
theorem goodWith_of_inputs {cfg : Config} {s : State} (h : GoodWith cfg s) (cmd : List Word)
    (payload : List Byte) (accepts : Bool) :
    GoodWith cfg { s with cmd := cmd, payload := payload, pixelAccept := accepts } := h

theorem takeCommand_keeps_goodWith {cfg : Config} {s : State} (h : GoodWith cfg s) :
    GoodWith cfg (takeCommand s) := goodWith_of_inputs h _ _ _

theorem takeBytes_keeps_goodWith {cfg : Config} {s : State} (n : BitVec 16) (h : GoodWith cfg s) :
    GoodWith cfg (takeBytes n s) := goodWith_of_inputs h _ _ _

/-- No error kind has the code of NONE (60_exceptions.md R201). -/
theorem errorCode_ne_noError (kind : ErrorKind) : errorCode kind ≠ noError := by
  cases kind <;> decide

/-- Either of the two errors that the block raises (60_exceptions.md R201) keeps the invariant. -/
theorem raiseError_keeps_goodWith {cfg : Config} {s : State} {kind : ErrorKind}
    (hkind : kind = .configurationError ∨ kind = .illegalCommand) (h : GoodWith cfg s) :
    GoodWith cfg (raiseError kind s) := by
  rcases raiseError_cases kind s with ⟨-, unchanged⟩ | ⟨-, entered⟩
  · rwa [unchanged]
  · obtain ⟨-, -, hgeometry, hseed, htiles⟩ := h
    rw [entered]
    have hagrees : true = false ↔ errorCode kind = noError := by simp [errorCode_ne_noError]
    exact ⟨hagrees, .inr (hkind.imp (congrArg errorCode) (congrArg errorCode)), hgeometry, hseed,
      htiles⟩

/-- A successful INIT stores the legal geometry and `SEED0` and leaves the fault state, so of the
invariant before it only the tiles matter. -/
theorem construct_keeps_goodWith {cfg : Config} {s : State} {bw lh : BitVec 12}
    (hlegal : legalGeometry bw lh = true) (h : GoodWith cfg s) :
    GoodWith cfg (construct cfg bw lh s) := by
  obtain ⟨-, -, -, -, htiles⟩ := h
  exact ⟨iff_of_true rfl rfl, .inl rfl, fun _ => hlegal, .inl rfl, htiles⟩

/-- A failed INIT keeps the invariant: an unconfigured block may hold any geometry. -/
theorem failConstruction_keeps_goodWith {cfg : Config} {s : State} (h : GoodWith cfg s) :
    GoodWith cfg (failConstruction s) := by
  obtain ⟨hagrees, hcode, -, hseed, htiles⟩ := h
  have hunconfigured : GeometryLegal { s with configured := false } := fun hconf =>
    absurd hconf Bool.false_ne_true
  exact raiseError_keeps_goodWith (.inl rfl) ⟨hagrees, hcode, hunconfigured, hseed, htiles⟩

/-! ## The invariant and a completed line -/

/-- Every tile of the rasterizer is whole (42_rasterizer.md R120, 20_memory.md R43). -/
theorem rasterize_wellShaped (f : List Bit) (bw lh : Nat) : (rasterize f bw lh).WellShaped := by
  refine ⟨by simp, fun row hrow => ?_⟩
  rw [List.eq_of_mem_replicate hrow, rasterRow_length, rasterize_width]

/-- The seed that a line leaves is the one it found, if it has no bits, or one that the generator
yields (10_state.md R22). -/
theorem completeLine_seedInRange {cfg : Config} {s : State} (hpos : 0 < cfg.lcgM)
    (bytes : List Byte) (h : SeedInRange cfg s) : SeedInRange cfg (completeLine cfg bytes s) := by
  unfold SeedInRange
  rw [completeLine_seed, whitenLine]
  by_cases hbits : unpack bytes = []
  · simpa [hbits] using h
  · have hlt := whiten_seed_lt hpos s.seed.toNat (unpack bytes) hbits
    exact .inr ((Nat.mod_le _ _).trans_lt hlt)

/-- A completed line keeps the invariant: it emits a whole tile and leaves a seed in range. -/
theorem completeLine_keeps_goodWith {cfg : Config} {s : State} (hpos : 0 < cfg.lcgM)
    (bytes : List Byte) (h : GoodWith cfg s) : GoodWith cfg (completeLine cfg bytes s) := by
  obtain ⟨hagrees, hcode, hgeometry, hseed, htiles⟩ := h
  refine ⟨hagrees, hcode, hgeometry, completeLine_seedInRange hpos bytes hseed, fun tile htile => ?_⟩
  rw [completeLine_pixel, List.mem_append, List.mem_singleton] at htile
  rcases htile with hold | rfl
  · exact htiles tile hold
  · exact rasterize_wellShaped _ _ _

/-! ## The invariant, steps and host moves -/

/-- Every step keeps the invariant, for any constants with a positive modulus. -/
theorem StepTo.keeps_goodWith {cfg : Config} {s t : State} (hpos : 0 < cfg.lcgM)
    (h : StepTo cfg s t) (hgood : GoodWith cfg s) : GoodWith cfg t := by
  have htaken : GoodWith cfg (takeCommand s) := takeCommand_keeps_goodWith hgood
  cases h with
  | idle => exact hgood
  | construct bw lh _ hlegal => exact construct_keeps_goodWith hlegal htaken
  | failConstruction => exact failConstruction_keeps_goodWith htaken
  | hold => exact hgood
  | discard n => exact takeBytes_keeps_goodWith n htaken
  | reject n => exact raiseError_keeps_goodWith (.inl rfl) (takeBytes_keeps_goodWith n htaken)
  | complete n => exact completeLine_keeps_goodWith hpos _ (takeBytes_keeps_goodWith n htaken)
  | illegal => exact raiseError_keeps_goodWith (.inr rfl) htaken

/-- The reset values of 10_state.md R20 meet the invariant, whatever whole tiles have left the block. -/
theorem resetWith_goodWith (cfg : Config) {tiles : List Tile} (accepts : Bool)
    (htiles : ∀ tile ∈ tiles, tile.WellShaped) :
    GoodWith cfg { State.resetWith cfg with pixel := tiles, pixelAccept := accepts } :=
  ⟨iff_of_true rfl rfl, .inl rfl, fun hconf => absurd hconf Bool.false_ne_true, .inl rfl, htiles⟩

theorem hardwareReset_keeps_good {s : State} (h : Good s) : Good (hardwareReset s) := by
  obtain ⟨-, -, -, -, htiles⟩ := h
  exact resetWith_goodWith Config.reference s.pixelAccept htiles

end Sys2Proof.Machine

/-! ## The statements -/

open Sys2Proof Sys2Proof.Machine

/-- Settles O30: by the operation that each way of stepping performs. -/
theorem goodKeptByStep : Obligations.GoodKeptByStep := fun _ _ hgood hstep =>
  (step_cases hstep).keeps_goodWith reference_legal.1 hgood

/-- Settles O29: the reset values meet the invariant, and no tile has been emitted. -/
theorem goodAtReset : Obligations.GoodAtReset :=
  resetWith_goodWith Config.reference (tiles := []) true (by simp)

/-- Settles O55: a host move is a hardware reset or writes input ports only. -/
theorem goodKeptByHost : Obligations.GoodKeptByHost := by
  intro a s hgood
  rcases hostAct_cases a s with hreset | ⟨cmd, payload, accepts, hinputs⟩
  · exact hreset ▸ hardwareReset_keeps_good hgood
  · exact hinputs ▸ goodWith_of_inputs hgood cmd payload accepts

/-- Settles O31, by induction on the moves and steps that lead from reset to the state. -/
theorem reachableStatesGood : Obligations.ReachableStatesGood := by
  intro s hreach
  induction hreach with
  | reset => exact goodAtReset
  | host a _ ih => exact goodKeptByHost a _ ih
  | block _ hstep ih => exact goodKeptByStep _ _ ih hstep

/-- Settles O25: the step changed the configuration, so of the ways of stepping only an INIT is left. -/
theorem onlyInitWritesConfiguration : Obligations.OnlyInitWritesConfiguration := by
  intro s t hstep hchanged
  rcases (step_cases hstep).configuration with ⟨hconf, hbw, hlh⟩ | ⟨bw, lh, hnext, hinit⟩
  · simp [hconf, hbw, hlh] at hchanged
  · refine ⟨bw, lh, hnext, ?_⟩
    rcases hinit with ⟨hlegal, hconf, hbw, hlh⟩ | ⟨hlegal, hconf, hbw, hlh⟩ <;>
      simp [hlegal, hconf, hbw, hlh]

/-- Settles O8, command by command at the reference constants. -/
theorem machineIsParametricBlock : Obligations.MachineIsParametricBlock := by
  unfold Obligations.MachineIsParametricBlock
  rw [withStep1_default]
  exact ⟨exec_eq_execWith, step_eq_stepWith⟩

/-- Settles O26, from the defined bits of the `STATUS` word. -/
theorem statusWordLayout : Obligations.StatusWordLayout := by
  intro s
  have hcode : (statusWord s).extractLsb' 2 3 = s.errCode := by
    apply BitVec.eq_of_getLsbD_eq
    intro i hi
    have hbit := statusWord_getLsbD s (i := 2 + i) (by omega)
    rw [if_neg (by omega), if_neg (by omega), if_pos (by omega), Nat.add_sub_cancel_left] at hbit
    rw [BitVec.getLsbD_extractLsb', hbit, decide_eq_true hi, Bool.true_and]
  have hidle : (statusWord s).getLsbD 5 = idle s := statusWord_getLsbD s (by decide)
  exact ⟨statusWord_getLsbD s (by decide), statusWord_getLsbD s (by decide), hcode,
    hidle ▸ idle_iff s, rfl⟩

end

section
/-! PROOFS. The port statements of 20_memory.md: what a step takes from the input queues and emits (R41
to R43), the order of a tile's pixels on the wire (R44), the byte order of a command word (R48) and
where an ENCODE_LINE holds (R53). -/

namespace Sys2Proof.Machine

/-! ## A command word as bytes -/

/-- The four bytes of a word, concatenated in the order of 20_memory.md R48, are the word. -/
theorem append_wordBytes (w : Word) :
    w.extractLsb' 24 8 ++ w.extractLsb' 16 8 ++ w.extractLsb' 8 8 ++ w.extractLsb' 0 8 = w := by
  rw [BitVec.extractLsb'_append_extractLsb'_eq_extractLsb' (by decide),
    BitVec.extractLsb'_append_extractLsb'_eq_extractLsb' (by decide),
    BitVec.extractLsb'_append_extractLsb'_eq_extractLsb' (by decide)]
  exact BitVec.extractLsb'_eq_self

theorem decodeBytes_wordBytes_append (w : Word) (rest : List Byte) :
    decodeBytes (wordBytes w ++ rest) = .ok (decode w, rest) := by
  have hread : decodeBytes (wordBytes w ++ rest) = .ok (decode (w.extractLsb' 24 8 ++
      w.extractLsb' 16 8 ++ w.extractLsb' 8 8 ++ w.extractLsb' 0 8), rest) := rfl
  rw [hread, append_wordBytes]

theorem decodeBytes_of_length_lt {bytes : List Byte} (h : bytes.length < 4) :
    decodeBytes bytes = .error .truncatedWord := by
  match bytes with
  | [] | [_] | [_, _] | [_, _, _] => rfl
  | _ :: _ :: _ :: _ :: rest =>
    simp only [List.length_cons] at h
    omega

/-! ## Where an ENCODE_LINE holds -/

/-- When an ENCODE_LINE has no step (20_memory.md R53, 93_implementation_defined.md I8): a byte is
missing, or the line would emit a tile that the consumer does not accept. -/
theorem lineReady_eq_false_iff (n : BitVec 16) (s : State) :
    lineReady n s = false ↔
      s.payload.length < n.toNat ∨
        (s.configured = true ∧ s.fault = false ∧ s.pixelAccept = false) := by
  rw [← Bool.not_eq_true, lineReady_iff, encodes_iff, not_and_or, Nat.not_le, Classical.not_imp,
    Bool.not_eq_true, and_assoc]

theorem queued_of_lineReady {n : BitVec 16} {s : State} (h : lineReady n s = true) :
    n.toNat ≤ s.payload.length := ((lineReady_iff n s).mp h).1

theorem execEncodeLineWith_of_held (cfg : Config) {n : BitVec 16} {s : State}
    (h : lineReady n s = false) : execEncodeLineWith cfg n s = .next s :=
  if_neg (Bool.not_eq_true _ ▸ h)

/-! ## A failed INIT and the ports -/

@[simp] theorem failConstruction_cmd (s : State) : (failConstruction s).cmd = s.cmd := by
  simp [failConstruction]

@[simp] theorem failConstruction_payload (s : State) :
    (failConstruction s).payload = s.payload := by simp [failConstruction]

@[simp] theorem failConstruction_pixel (s : State) : (failConstruction s).pixel = s.pixel := by
  simp [failConstruction]

@[simp] theorem failConstruction_pixelAccept (s : State) :
    (failConstruction s).pixelAccept = s.pixelAccept := by simp [failConstruction]

/-! ## What a step does to the ports -/

/-- The next command is the decoded head of `CMD` (20_memory.md R41). -/
theorem nextCommand_eq_some_iff {s : State} {i : Instr} :
    nextCommand s = some i ↔ ∃ w rest, s.cmd = w :: rest ∧ decode w = i := by
  cases hcmd : s.cmd <;> simp [nextCommand, hcmd]

/-- From `s` to `t` the block takes one word and `n` queued bytes and emits at most one tile
(20_memory.md R51). -/
structure TakesWordAndBytes (n : Nat) (s t : State) : Prop where
  /-- The oldest word is gone from `CMD` (R41). -/
  cmd : t.cmd = s.cmd.tail
  /-- The bytes were queued (R53). -/
  queued : n ≤ s.payload.length
  /-- The oldest bytes, and no others, are gone from `PAYLOAD` (R42). -/
  payload : t.payload = s.payload.drop n
  /-- The tiles emitted before stand, and at most one, whole, follows them (R43). -/
  pixel : ∃ tiles, t.pixel = s.pixel ++ tiles ∧ tiles.length ≤ 1
  /-- The consumer's readiness is the environment's (log 4). -/
  pixelAccept : t.pixelAccept = s.pixelAccept

/-- INIT and an illegal word: the word leaves `CMD` and no other port changes. -/
theorem TakesWordAndBytes.of_word {s t : State} (hcmd : t.cmd = s.cmd.tail)
    (hpayload : t.payload = s.payload) (hpixel : t.pixel = s.pixel)
    (haccept : t.pixelAccept = s.pixelAccept) : TakesWordAndBytes 0 s t :=
  ⟨hcmd, Nat.zero_le _, hpayload, ⟨[], by simp [hpixel]⟩, haccept⟩

/-- A step other than an idle or a held one takes exactly its word and the bytes of its command. -/
theorem StepTo.ports {cfg : Config} {s t : State} (h : StepTo cfg s t) :
    t = s ∨ ∃ i, nextCommand s = some i ∧ TakesWordAndBytes (bytesNeeded i) s t := by
  cases h with
  | idle => exact .inl rfl
  | construct bw lh hnext => exact .inr ⟨_, hnext, .of_word rfl rfl rfl rfl⟩
  | failConstruction bw lh hnext =>
    exact .inr ⟨_, hnext, .of_word (by simp) (by simp) (by simp) (by simp)⟩
  | hold => exact .inl rfl
  | discard n hnext hready =>
    exact .inr ⟨_, hnext, rfl, queued_of_lineReady hready, rfl, ⟨[], by simp⟩, rfl⟩
  | reject n hnext hready =>
    exact .inr ⟨_, hnext, by simp, queued_of_lineReady hready, by simp [bytesNeeded],
      ⟨[], by simp⟩, by simp⟩
  | complete n hnext hready =>
    exact .inr ⟨_, hnext, rfl, queued_of_lineReady hready, rfl, ⟨[_], rfl, Nat.le_refl 1⟩, rfl⟩
  | illegal w hnext =>
    exact .inr ⟨_, hnext, .of_word (by simp) (by simp) (by simp) (by simp)⟩

/-! ## The order of a tile's pixels -/

theorem length_flatten_of_width {rows : List (List Bit)} {width : Nat}
    (h : ∀ row ∈ rows, row.length = width) : rows.flatten.length = rows.length * width := by
  rw [List.length_flatten, List.sum_eq_card_nsmul _ width (by simpa using h), List.length_map,
    smul_eq_mul]

/-- Column `c` of row `r` comes after `r` whole rows (20_memory.md R44). -/
theorem getElem?_flatten_of_width {rows : List (List Bit)} {width : Nat}
    (h : ∀ row ∈ rows, row.length = width) (r : Nat) {c : Nat} (hc : c < width) :
    rows.flatten[r * width + c]? = rows[r]? >>= fun row => row[c]? := by
  induction rows generalizing r with
  | nil => simp
  | cons row rows ih =>
    obtain ⟨hrow, hrows⟩ := List.forall_mem_cons.mp h
    rw [List.flatten_cons]
    cases r with
    | zero => simp [List.getElem?_append_left (hrow.symm ▸ hc : c < row.length)]
    | succ r =>
      have hskip : (r + 1) * width + c = row.length + (r * width + c) := by
        rw [hrow, Nat.succ_mul]
        omega
      rw [hskip, List.getElem?_append_right (Nat.le_add_right _ _), Nat.add_sub_cancel_left,
        ih hrows, List.getElem?_cons_succ]

theorem Tile.wire_length {tile : Tile} (h : tile.WellShaped) :
    tile.wire.length = tile.height * tile.width := by
  obtain ⟨hheight, hwidth⟩ := h
  rw [Tile.wire, length_flatten_of_width hwidth, hheight]

theorem Tile.wire_getElem? {tile : Tile} (h : tile.WellShaped) (r : Nat) {c : Nat}
    (hc : c < tile.width) : tile.wire[r * tile.width + c]? = tile.pixelAt r c :=
  let ⟨_, hwidth⟩ := h
  getElem?_flatten_of_width hwidth r hc

end Sys2Proof.Machine

/-! ## The statements -/

open Sys2Proof Sys2Proof.Machine

/-- Settles O11, from what each way of stepping does to the ports. -/
theorem stepIsAtomicOnQueues : Obligations.StepIsAtomicOnQueues := by
  intro s t hstep
  rcases (step_cases hstep).ports with unchanged | ⟨i, hnext, htakes⟩
  · exact .inl unchanged
  · obtain ⟨w, rest, hcmd, rfl⟩ := nextCommand_eq_some_iff.mp hnext
    obtain ⟨tiles, hpixel, hone⟩ := htakes.pixel
    exact .inr ⟨w, rest, tiles, hcmd, by rw [htakes.cmd, hcmd, List.tail_cons], htakes.queued,
      htakes.payload, hpixel, hone, htakes.pixelAccept⟩

/-- Settles O47: pixel `q` is column `q mod W` after `q div W` whole rows. -/
theorem wireOrderIsRowMajor : Obligations.WireOrderIsRowMajor := by
  intro tile q hshape
  refine ⟨Tile.wire_length hshape, fun hq => ?_⟩
  have hwidth : 0 < tile.width := Nat.pos_of_ne_zero fun hzero => by simp [hzero] at hq
  have hpixel := Tile.wire_getElem? hshape (q / tile.width) (Nat.mod_lt q hwidth)
  rwa [Nat.div_add_mod'] at hpixel

/-- Settles O6, from the round trip of a word's four bytes and the refusal of fewer. -/
theorem commandBytesReadBack : Obligations.CommandBytesReadBack :=
  ⟨decodeBytes_wordBytes_append, fun _ hshort => decodeBytes_of_length_lt hshort⟩

/-- Settles O17: either of the two reasons to wait means that the line is not ready. -/
theorem encodeLineHolds : Obligations.EncodeLineHolds := fun n s hwait =>
  execEncodeLineWith_of_held Config.reference ((lineReady_eq_false_iff n s).mpr hwait)

end

section
/-! PROOFS. The encoding statements: the decoder as the masks and matches of the opcode map
(30_encoding.md R65, R66), the two round trips, which words are illegal and how many words of each kind
there are (R67), the examples (R70), and the words and expansion of the assembler (R68, R69). -/

namespace Sys2Proof

/-! ## A word as the concatenation of its fields -/

/-- The fields of format `G` make up the word (30_encoding.md R62). -/
theorem append_fieldsG (w : Word) : opField w ++ rsvFieldG w ++ bwField w ++ lhField w = w := by
  rw [opField, rsvFieldG, bwField, lhField,
    BitVec.extractLsb'_append_extractLsb'_eq_extractLsb' (by decide),
    BitVec.extractLsb'_append_extractLsb'_eq_extractLsb' (by decide),
    BitVec.extractLsb'_append_extractLsb'_eq_extractLsb' (by decide)]
  exact BitVec.extractLsb'_eq_self

/-- The fields of format `N` make up the word (30_encoding.md R63). -/
theorem append_fieldsN (w : Word) : opField w ++ rsvFieldN w ++ nbField w = w := by
  rw [opField, rsvFieldN, nbField,
    BitVec.extractLsb'_append_extractLsb'_eq_extractLsb' (by decide),
    BitVec.extractLsb'_append_extractLsb'_eq_extractLsb' (by decide)]
  exact BitVec.extractLsb'_eq_self

/-- With the opcode and reserved field of INIT, a word is the INIT word of its operand fields. -/
theorem encode_init_fields {w : Word} (h : opField w = 0b0001#4 ∧ rsvFieldG w = 0#4) :
    encode (.init (bwField w) (lhField w)) = w := by
  obtain ⟨hop, hrsv⟩ := h
  calc encode (.init (bwField w) (lhField w))
      = opField w ++ rsvFieldG w ++ bwField w ++ lhField w := by rw [hop, hrsv]; rfl
    _ = w := append_fieldsG w

/-- With the opcode and reserved field of ENCODE_LINE, a word is the ENCODE_LINE word of its count. -/
theorem encode_encodeLine_fields {w : Word} (h : opField w = 0b0010#4 ∧ rsvFieldN w = 0#12) :
    encode (.encodeLine (nbField w)) = w := by
  obtain ⟨hop, hrsv⟩ := h
  calc encode (.encodeLine (nbField w))
      = opField w ++ rsvFieldN w ++ nbField w := by rw [hop, hrsv]; rfl
    _ = w := append_fieldsN w

/-! ## The operand fields of an encoded command -/

@[simp] theorem bwField_encode_init (bw lh : BitVec 12) : bwField (encode (.init bw lh)) = bw := by
  apply BitVec.eq_of_getLsbD_eq
  intro k hk
  rw [bwField, BitVec.getLsbD_extractLsb', encode_init_getLsbD]
  simp [hk, show 12 + k < 24 by omega]

@[simp] theorem lhField_encode_init (bw lh : BitVec 12) : lhField (encode (.init bw lh)) = lh := by
  apply BitVec.eq_of_getLsbD_eq
  intro k hk
  rw [lhField, BitVec.getLsbD_extractLsb', encode_init_getLsbD]
  simp [hk]

@[simp] theorem nbField_encode_encodeLine (n : BitVec 16) :
    nbField (encode (.encodeLine n)) = n := by
  apply BitVec.eq_of_getLsbD_eq
  intro k hk
  rw [nbField, BitVec.getLsbD_extractLsb', encode_encodeLine_getLsbD]
  simp [hk]

/-! ## The masks and matches of the opcode map -/

/-- A bit field that a mask keeps whole has the same value in the word and in the masked word. -/
theorem extractLsb'_eq_of_and_eq {w mask value : Word} {start len : Nat}
    (hmatch : w &&& mask = value) (hkept : mask.extractLsb' start len = BitVec.allOnes len) :
    w.extractLsb' start len = value.extractLsb' start len := by
  rw [← hmatch, BitVec.extractLsb'_and, hkept, BitVec.and_allOnes]

theorem matchesInit_iff_mask (w : Word) :
    matchesInit w = true ↔ w &&& 0xFF000000#32 = 0x10000000#32 := beq_iff_eq

theorem matchesEncodeLine_iff_mask (w : Word) :
    matchesEncodeLine w = true ↔ w &&& 0xFFFF0000#32 = 0x20000000#32 := beq_iff_eq

/-- The INIT row by its opcode and reserved field (30_encoding.md R65, R66). -/
theorem matchesInit_iff (w : Word) :
    matchesInit w = true ↔ opField w = 0b0001#4 ∧ rsvFieldG w = 0#4 := by
  constructor
  · intro h
    have hmatch := (matchesInit_iff_mask w).mp h
    exact ⟨extractLsb'_eq_of_and_eq hmatch (by decide), extractLsb'_eq_of_and_eq hmatch (by decide)⟩
  · intro h
    obtain ⟨hinit, _⟩ := Laws.RowMatch.init (bwField w) (lhField w) rfl
    rwa [encode_init_fields h] at hinit

/-- The ENCODE_LINE row by its opcode and reserved field (30_encoding.md R65, R66). -/
theorem matchesEncodeLine_iff (w : Word) :
    matchesEncodeLine w = true ↔ opField w = 0b0010#4 ∧ rsvFieldN w = 0#12 := by
  constructor
  · intro h
    have hmatch := (matchesEncodeLine_iff_mask w).mp h
    exact ⟨extractLsb'_eq_of_and_eq hmatch (by decide), extractLsb'_eq_of_and_eq hmatch (by decide)⟩
  · intro h
    obtain ⟨_, hline⟩ := Laws.RowMatch.encodeLine (nbField w) rfl
    rwa [encode_encodeLine_fields h] at hline

/-- The INIT words: those that match the row, each with its own operand fields. -/
theorem encode_init_eq_iff (bw lh : BitVec 12) (w : Word) :
    encode (.init bw lh) = w ↔ matchesInit w = true ∧ bw = bwField w ∧ lh = lhField w := by
  constructor
  · rintro rfl
    obtain ⟨hinit, _⟩ := Laws.RowMatch.init bw lh rfl
    simp [hinit]
  · rintro ⟨hinit, rfl, rfl⟩
    exact encode_init_fields ((matchesInit_iff w).mp hinit)

/-- The ENCODE_LINE words: those that match the row, each with its own count. -/
theorem encode_encodeLine_eq_iff (n : BitVec 16) (w : Word) :
    encode (.encodeLine n) = w ↔ matchesEncodeLine w = true ∧ n = nbField w := by
  constructor
  · rintro rfl
    obtain ⟨_, hline⟩ := Laws.RowMatch.encodeLine n rfl
    simp [hline]
  · rintro ⟨hline, rfl⟩
    exact encode_encodeLine_fields ((matchesEncodeLine_iff w).mp hline)

theorem wellFormed_illegal_iff (w : Word) :
    (Instr.illegal w).wellFormed = true ↔ matchesInit w = false ∧ matchesEncodeLine w = false := by
  simp [Instr.wellFormed]

/-! ## The decoder -/

/-- The decoder of 30_encoding.md R66 by the rows of the opcode map. -/
theorem decode_eq_ite_matches (w : Word) :
    decode w =
      if matchesInit w = true then .init (bwField w) (lhField w)
      else if matchesEncodeLine w = true then .encodeLine (nbField w)
      else .illegal w := by
  simp only [decode, matchesInit_iff, matchesEncodeLine_iff]

theorem decode_encode {i : Instr} (h : i.wellFormed = true) : decode (encode i) = i := by
  rw [decode_eq_ite_matches]
  cases i with
  | init bw lh =>
    obtain ⟨hinit, _⟩ := Laws.RowMatch.init bw lh h
    simp [hinit]
  | encodeLine n =>
    obtain ⟨hinit, hline⟩ := Laws.RowMatch.encodeLine n h
    simp [hinit, hline]
  | illegal w =>
    obtain ⟨hinit, hline⟩ := (wellFormed_illegal_iff w).mp h
    simp [encode, hinit, hline]

/-- A word is the word of the well-formed command that it decodes to. -/
theorem wellFormed_decode_and_encode_decode (w : Word) :
    (decode w).wellFormed = true ∧ encode (decode w) = w := by
  rw [decode_eq_ite_matches]
  split
  next hinit => exact ⟨rfl, (encode_init_eq_iff _ _ w).mpr ⟨hinit, rfl, rfl⟩⟩
  next hinit =>
    split
    next hline => exact ⟨rfl, (encode_encodeLine_eq_iff _ w).mpr ⟨hline, rfl⟩⟩
    next hline =>
      rw [Bool.not_eq_true] at hinit hline
      exact ⟨(wellFormed_illegal_iff w).mpr ⟨hinit, hline⟩, rfl⟩

/-- Decoding and encoding are inverse to each other between words and well-formed commands. -/
theorem decode_eq_iff {w : Word} {i : Instr} :
    decode w = i ↔ i.wellFormed = true ∧ encode i = w := by
  constructor
  · rintro rfl
    exact wellFormed_decode_and_encode_decode w
  · rintro ⟨hwf, rfl⟩
    exact decode_encode hwf

theorem decode_eq_init_iff {w : Word} {bw lh : BitVec 12} :
    decode w = .init bw lh ↔ matchesInit w = true ∧ bw = bwField w ∧ lh = lhField w := by
  rw [decode_eq_iff, encode_init_eq_iff]
  exact and_iff_right rfl

theorem decode_eq_encodeLine_iff {w : Word} {n : BitVec 16} :
    decode w = .encodeLine n ↔ matchesEncodeLine w = true ∧ n = nbField w := by
  rw [decode_eq_iff, encode_encodeLine_eq_iff]
  exact and_iff_right rfl

theorem decode_eq_illegal_iff {w v : Word} :
    decode w = .illegal v ↔ v = w ∧ matchesInit w = false ∧ matchesEncodeLine w = false := by
  rw [decode_eq_iff, wellFormed_illegal_iff]
  constructor
  · rintro ⟨hnone, rfl⟩
    exact ⟨rfl, hnone⟩
  · rintro ⟨rfl, hnone⟩
    exact ⟨hnone, rfl⟩

/-! ## Illegal words -/

/-- The cases (a) to (d) of 30_encoding.md R67. -/
theorem decode_eq_illegal_iff_fields (w : Word) :
    decode w = .illegal w ↔
      opField w = 0#4 ∨ 3 ≤ (opField w).toNat ∨
        (opField w = 1#4 ∧ rsvFieldG w ≠ 0#4) ∨ (opField w = 2#4 ∧ rsvFieldN w ≠ 0#12) := by
  have hop : opField w = 0#4 ∨ opField w = 1#4 ∨ opField w = 2#4 ∨ 3 ≤ (opField w).toNat := by
    generalize opField w = op
    revert op
    decide
  rw [decode_eq_illegal_iff, ← Bool.not_eq_true, ← Bool.not_eq_true, matchesInit_iff,
    matchesEncodeLine_iff]
  rcases hop with h0 | h1 | h2 | h3
  · simp [h0]
  · simp [h1]
  · simp [h2]
  · have hne1 : opField w ≠ 1#4 := fun h => by simp [h] at h3
    have hne2 : opField w ≠ 2#4 := fun h => by simp [h] at h3
    simp [h3, hne1, hne2]

/-! ## How many words of each kind there are (30_encoding.md R67) -/

/-- The words that decode as INIT. -/
def initWords : Set Word := {w | ∃ bw lh, decode w = .init bw lh}

/-- The words that decode as ENCODE_LINE. -/
def encodeLineWords : Set Word := {w | ∃ n, decode w = .encodeLine n}

/-- The words that decode as ILLEGAL. -/
def illegalWords : Set Word := {w | decode w = .illegal w}

theorem card_bitVec (n : Nat) : Nat.card (BitVec n) = 2 ^ n := by
  rw [Nat.card_congr BitVec.equivFin.toEquiv, Nat.card_fin]

theorem encode_injective_of_wellFormed {i j : Instr} (hi : i.wellFormed = true)
    (hj : j.wellFormed = true) (h : encode i = encode j) : i = j := by
  rw [← decode_encode hi, h, decode_encode hj]

/-- There are as many words of a kind of command as there are values of its operands. -/
theorem ncard_decode_eq {Operands : Type} {command : Operands → Instr}
    (hinj : Function.Injective command) (hwf : ∀ a, (command a).wellFormed = true) :
    {w : Word | ∃ a, decode w = command a}.ncard = Nat.card Operands := by
  have hrange : {w : Word | ∃ a, decode w = command a} = Set.range (encode ∘ command) := by
    ext w
    simp [decode_eq_iff, hwf]
  have hencode : Function.Injective (encode ∘ command) := fun a b h =>
    hinj (encode_injective_of_wellFormed (hwf a) (hwf b) h)
  rw [hrange, Set.ncard_range_of_injective hencode]

theorem initWords_ncard : initWords.ncard = 2 ^ 24 := by
  have hpairs : initWords = {w | ∃ p : BitVec 12 × BitVec 12, decode w = .init p.1 p.2} := by
    simp [initWords]
  have hinj : Function.Injective fun p : BitVec 12 × BitVec 12 => Instr.init p.1 p.2 :=
    fun p q h => by simpa [Prod.ext_iff] using h
  rw [hpairs, ncard_decode_eq hinj fun _ => rfl, Nat.card_prod, card_bitVec, ← pow_add]

theorem encodeLineWords_ncard : encodeLineWords.ncard = 2 ^ 16 := by
  have hinj : Function.Injective Instr.encodeLine := fun _ _ => Instr.encodeLine.inj
  rw [encodeLineWords, ncard_decode_eq hinj fun _ => rfl, card_bitVec]

theorem disjoint_initWords_encodeLineWords : Disjoint initWords encodeLineWords := by
  rw [Set.disjoint_left]
  rintro w ⟨bw, lh, hinit⟩ ⟨n, hline⟩
  simp [hinit] at hline

/-- The illegal words are the words of neither kind. -/
theorem illegalWords_eq_compl : illegalWords = (initWords ∪ encodeLineWords)ᶜ := by
  ext w
  have hword : encode (decode w) = w := (wellFormed_decode_and_encode_decode w).2
  cases hdecode : decode w with
  | init => simp [illegalWords, initWords, hdecode]
  | encodeLine => simp [illegalWords, encodeLineWords, hdecode]
  | illegal v =>
    obtain rfl : v = w := by rwa [hdecode] at hword
    simp [illegalWords, initWords, encodeLineWords, hdecode]

theorem illegalWords_ncard : illegalWords.ncard = 2 ^ 32 - 2 ^ 24 - 2 ^ 16 := by
  rw [illegalWords_eq_compl, Set.ncard_compl, card_bitVec,
    Set.ncard_union_eq disjoint_initWords_encodeLineWords, initWords_ncard, encodeLineWords_ncard,
    Nat.sub_add_eq]

end Sys2Proof

namespace Sys2Proof.Machine

/-- A word that decodes as illegal is taken and raises ILLEGAL_COMMAND (60_exceptions.md R207). -/
theorem exec_illegal (w : Word) (s : State) :
    exec (.illegal w) s = .next (raiseError .illegalCommand { s with cmd := s.cmd.tail }) := rfl

/-! ## Assembler fields (30_encoding.md R68) -/

@[simp] theorem asmField_toNat {width : Nat} (x : BitVec width) :
    asmField width x.toNat = .ok x := by
  simp [asmField, x.isLt]

theorem asmField_of_le {width value : Nat} (h : 2 ^ width ≤ value) :
    asmField width value = .error .operandRange := if_neg (Nat.not_lt.mpr h)

/-- An operand is in its field's range and gives a field, or it is the range error. -/
theorem asmField_cases (width value : Nat) :
    (value < 2 ^ width ∧ ∃ x, asmField width value = .ok x) ∨
      asmField width value = .error .operandRange := by
  rcases Nat.lt_or_ge value (2 ^ width) with hlt | hle
  · exact .inl ⟨hlt, _, if_pos hlt⟩
  · exact .inr (asmField_of_le hle)

@[simp] theorem asmBytes_map_toNat (bytes : List Byte) :
    asmBytes (bytes.map BitVec.toNat) = .ok bytes := by
  induction bytes with
  | nil => rfl
  | cons b bytes ih =>
    rw [List.map_cons, asmBytes, asmField_toNat, ih]
    rfl

/-- One byte out of range, wherever it stands, makes the whole directive a range error. -/
theorem asmBytes_of_le {bytes : List Nat} (h : ∃ b ∈ bytes, 256 ≤ b) :
    asmBytes bytes = .error .operandRange := by
  induction bytes with
  | nil => simp at h
  | cons b bytes ih =>
    rw [asmBytes]
    rcases asmField_cases 8 b with ⟨hlt, first, hfirst⟩ | herror
    · have hrest : ∃ b ∈ bytes, 256 ≤ b := by
        simpa [show ¬256 ≤ b from Nat.not_le.mpr hlt] using h
      rw [hfirst, ih hrest]
      rfl
    · rw [herror]
      rfl

/-! ## Statements (30_encoding.md R68) -/

theorem assembleStmt_init_toNat (bw lh : BitVec 12) :
    assembleStmt (.init bw.toNat lh.toNat) = .ok ([encode (.init bw lh)], []) := by
  rw [assembleStmt, asmField_toNat, asmField_toNat]
  rfl

theorem assembleStmt_encodeLine_toNat (n : BitVec 16) :
    assembleStmt (.encodeLine n.toNat) = .ok ([encode (.encodeLine n)], []) := by
  rw [assembleStmt, asmField_toNat]
  rfl

theorem assembleStmt_word_toNat (w : Word) : assembleStmt (.word w.toNat) = .ok ([w], []) := by
  rw [assembleStmt, asmField_toNat]
  rfl

theorem assembleStmt_payload_map_toNat (bytes : List Byte) :
    assembleStmt (.payload (bytes.map BitVec.toNat)) = .ok ([], bytes) := by
  rw [assembleStmt, asmBytes_map_toNat]
  rfl

/-- One operand of INIT out of range is enough, whatever the other is. -/
theorem assembleStmt_init_of_le {bw lh : Nat} (h : 4096 ≤ bw ∨ 4096 ≤ lh) :
    assembleStmt (.init bw lh) = .error .operandRange := by
  rw [assembleStmt]
  rcases asmField_cases 12 bw with ⟨hlt, b, hb⟩ | herror
  · rw [hb, asmField_of_le (width := 12) (h.resolve_left (Nat.not_le.mpr hlt))]
    rfl
  · rw [herror]
    rfl

theorem assembleStmt_encodeLine_of_le {n : Nat} (h : 65536 ≤ n) :
    assembleStmt (.encodeLine n) = .error .operandRange := by
  rw [assembleStmt, asmField_of_le (width := 16) h]
  rfl

theorem assembleStmt_word_of_le {value : Nat} (h : 2 ^ 32 ≤ value) :
    assembleStmt (.word value) = .error .operandRange := by
  rw [assembleStmt, asmField_of_le h]
  rfl

theorem assembleStmt_payload_of_le {bytes : List Nat} (h : ∃ b ∈ bytes, 256 ≤ b) :
    assembleStmt (.payload bytes) = .error .operandRange := by
  rw [assembleStmt, asmBytes_of_le h]
  rfl

/-! ## The pseudo-instruction (30_encoding.md R69) -/

/-- `LINE` and its expansion check the count, then the bytes, then the rest of the program, so the first
error met is the same. -/
theorem assemble_line_cons (bytes : List Nat) (rest : List AsmStmt) :
    assemble (.line bytes :: rest) =
      assemble (.encodeLine bytes.length :: .payload bytes :: rest) := by
  simp only [assemble, assembleStmt]
  cases asmField 16 bytes.length with
  | error => rfl
  | ok count =>
    cases asmBytes bytes with
    | error => rfl
    | ok queued => cases assemble rest <;> rfl

end Sys2Proof.Machine

/-! ## The statements -/

open Sys2Proof Sys2Proof.Machine

/-- Settles O1, row by row of the opcode map: an encoded command matches its own row alone. -/
theorem decodeEncodeRoundTrip : Obligations.DecodeEncodeRoundTrip := fun _ => decode_encode

/-- Settles O2: the fields of a word that matches a row make up the word again. -/
theorem encodeDecodeRoundTrip : Obligations.EncodeDecodeRoundTrip :=
  wellFormed_decode_and_encode_decode

/-- Settles O3, from the masks and matches that say which words each row has. -/
theorem decodeFollowsOpcodeMap : Obligations.DecodeFollowsOpcodeMap := by
  intro w
  refine ⟨fun bw lh => ?_, fun n => ?_, fun v => ?_⟩
  · rw [decode_eq_init_iff, matchesInit_iff_mask, bwField, lhField]
  · rw [decode_eq_encodeLine_iff, matchesEncodeLine_iff_mask, nbField]
  · rw [decode_eq_illegal_iff, ← Bool.not_eq_true, ← Bool.not_eq_true, matchesInit_iff_mask,
      matchesEncodeLine_iff_mask]

/-- Settles O4: the operands count the INIT and the ENCODE_LINE words, and the illegal words are all the
others. -/
theorem illegalWordsAndCounts : Obligations.IllegalWordsAndCounts :=
  ⟨decode_eq_illegal_iff_fields, initWords_ncard, encodeLineWords_ncard, illegalWords_ncard,
    fun w s hillegal => hillegal ▸ exec_illegal w s⟩

/-- Settles O5: each example's word is its encoding, and is read back by the round trip. -/
theorem encodingExamples : Obligations.EncodingExamples :=
  ⟨rfl, decode_eq_iff.mpr ⟨rfl, rfl⟩, rfl, decode_eq_iff.mpr ⟨rfl, rfl⟩,
    rfl, decode_eq_iff.mpr ⟨rfl, rfl⟩, rfl, decode_eq_iff.mpr ⟨rfl, rfl⟩,
    rfl, decode_eq_iff.mpr ⟨rfl, rfl⟩, rfl, decode_eq_iff.mpr ⟨rfl, rfl⟩,
    rfl, decode_eq_iff.mpr ⟨rfl, rfl⟩,
    decode_eq_iff.mpr ⟨rfl, rfl⟩, decode_eq_iff.mpr ⟨rfl, rfl⟩,
    decode_eq_iff.mpr ⟨rfl, rfl⟩, decode_eq_iff.mpr ⟨rfl, rfl⟩⟩

/-- Settles O48, form of statement by form of statement. -/
theorem assemblerWords : Obligations.AssemblerWords :=
  ⟨assembleStmt_init_toNat, assembleStmt_encodeLine_toNat, assembleStmt_word_toNat,
    assembleStmt_payload_map_toNat, fun _ _ => assembleStmt_init_of_le,
    fun _ => assembleStmt_encodeLine_of_le, fun _ => assembleStmt_word_of_le,
    fun _ => assembleStmt_payload_of_le⟩

/-- Settles O49: both forms make the same checks in the same order. -/
theorem linePseudoExpands : Obligations.LinePseudoExpands := assemble_line_cons

end

section
/-! PROOFS. The whitener statements of 40_whitener.md: whitening in closed form (R83, R86), across
a cut (R85), its own inverse (R89) and its seed modulo `LCG_M` (R88); the generator (R87, R92); and
what these say of the block's steps and runs: the history of `SEED` and `CURSOR` and lines as one
stream (R85), the stream that INIT restarts (R90) and runs from reduced seeds (R88). -/

namespace Sys2Proof.Machine

/-! ## Whitening -/

/-- The seeds do not depend on the payload (40_whitener.md R86). -/
theorem whiten_seed (cfg : Config) (s : Nat) (p : List Bit) :
    (whiten cfg s p).1 = (lcgNext cfg)^[p.length] s := by
  induction p generalizing s with
  | nil => rfl
  | cons b p ih => rw [whiten_cons, ih, List.length_cons, Function.iterate_succ_apply]

/-- Whitened bit `k` is payload bit `k` XOR the low bit of the seed after `k + 1` steps (R82). -/
theorem whiten_getElem? (cfg : Config) (s : Nat) {p : List Bit} {k : Nat} {b : Bit}
    (h : p[k]? = some b) :
    (whiten cfg s p).2[k]? = some (Bool.xor b (whiteningBit ((lcgNext cfg)^[k + 1] s))) := by
  induction p generalizing s k with
  | nil => simp at h
  | cons c p ih =>
    rw [whiten_cons]
    cases k with
    | zero =>
      obtain rfl : c = b := by simpa using h
      rfl
    | succ k =>
      rw [List.getElem?_cons_succ] at h ⊢
      rw [ih _ h, Function.iterate_succ_apply _ (k + 1)]

/-- Whitening goes on from the seed that the first part left (R85). -/
theorem whiten_append (cfg : Config) (s : Nat) (p q : List Bit) :
    whiten cfg s (p ++ q) =
      ((whiten cfg (whiten cfg s p).1 q).1,
        (whiten cfg s p).2 ++ (whiten cfg (whiten cfg s p).1 q).2) := by
  induction p generalizing s with
  | nil => rfl
  | cons b p ih => rw [List.cons_append, whiten_cons, ih, whiten_cons, List.cons_append]

/-- Whitening twice from one seed restores the bits: each is XORed twice with the same bit (R89). -/
theorem whiten_whiten (cfg : Config) (s : Nat) (p : List Bit) :
    whiten cfg s (whiten cfg s p).2 = ((whiten cfg s p).1, p) := by
  induction p generalizing s with
  | nil => rfl
  | cons b p ih => simp [ih]

/-! ## Seeds that agree modulo LCG_M (40_whitener.md R88) -/

theorem lcgNext_congr {cfg : Config} {s s' : Nat} (h : s' ≡ s [MOD cfg.lcgM]) :
    lcgNext cfg s' = lcgNext cfg s :=
  (h.mul_left cfg.lcgA).add_right cfg.lcgC

/-- From the first step on, seeds that agree modulo `LCG_M` are equal. -/
theorem iterate_succ_lcgNext_congr {cfg : Config} {s s' : Nat} (h : s' ≡ s [MOD cfg.lcgM])
    (k : Nat) : (lcgNext cfg)^[k + 1] s' = (lcgNext cfg)^[k + 1] s := by
  rw [Function.iterate_succ_apply, Function.iterate_succ_apply, lcgNext_congr h]

theorem whiten_congr {cfg : Config} {s s' : Nat} (h : s' ≡ s [MOD cfg.lcgM]) {p : List Bit}
    (hp : p ≠ []) : whiten cfg s' p = whiten cfg s p := by
  cases p with
  | nil => exact absurd rfl hp
  | cons b p => rw [whiten_cons, whiten_cons, lcgNext_congr h]

/-- The whitened bits are those of the reduced seed, also where there are none. -/
theorem whiten_bits_congr {cfg : Config} {s s' : Nat} (h : s' ≡ s [MOD cfg.lcgM]) (p : List Bit) :
    (whiten cfg s' p).2 = (whiten cfg s p).2 := by
  rcases eq_or_ne p [] with rfl | hp
  · rfl
  · rw [whiten_congr h hp]

/-- The seeds that a line leaves in `SEED` go on agreeing modulo `LCG_M`: an empty line keeps both,
and any other gives equal ones. -/
theorem whiten_stored_seed_congr {cfg : Config} {seed seed' : BitVec 32}
    (h : seed'.toNat ≡ seed.toNat [MOD cfg.lcgM]) (p : List Bit) :
    (BitVec.ofNat 32 (whiten cfg seed'.toNat p).1).toNat ≡
      (BitVec.ofNat 32 (whiten cfg seed.toNat p).1).toNat [MOD cfg.lcgM] := by
  rcases eq_or_ne p [] with rfl | hp
  · simpa using h
  · rw [whiten_congr h hp]

/-! ## The seed register -/

/-- From a seed that fits in `SEED`, every later one fits too (00_scope.md R13). -/
theorem iterate_lcgNext_lt_two_pow {cfg : Config} (hcfg : cfg.Legal) (seed : BitVec 32) (k : Nat) :
    (lcgNext cfg)^[k] seed.toNat < 2 ^ 32 := by
  cases k with
  | zero => exact seed.isLt
  | succ k =>
    rw [Function.iterate_succ_apply']
    exact lcgNext_lt_two_pow hcfg _

/-- With legal constants the final seed of a line is stored in `SEED` exactly (log 10). -/
theorem whiten_stored_seed {cfg : Config} (hcfg : cfg.Legal) (seed : BitVec 32) (p : List Bit) :
    (BitVec.ofNat 32 (whiten cfg seed.toNat p).1).toNat = (whiten cfg seed.toNat p).1 := by
  rw [BitVec.toNat_ofNat, whiten_seed]
  exact Nat.mod_eq_of_lt (iterate_lcgNext_lt_two_pow hcfg seed _)

/-! ## The generator at the reference constants (40_whitener.md R87) -/

/-- `LCG_M` is the Mersenne number `2^31 - 1`, prime by the Lucas-Lehmer test. -/
theorem reference_lcgM_prime : Nat.Prime Config.reference.lcgM :=
  lucas_lehmer_sufficiency 31 (by norm_num) (by norm_num)

/-- The residues modulo `LCG_M` are a field. -/
theorem residue_modulus_prime : Fact (Nat.Prime 2147483647) := ⟨reference_lcgM_prime⟩

theorem residue_cast_inj {x y : Nat} (hx : x < 2147483647) (hy : y < 2147483647) :
    (x : ZMod 2147483647) = y ↔ x = y := by
  rw [ZMod.natCast_eq_natCast_iff', Nat.mod_eq_of_lt hx, Nat.mod_eq_of_lt hy]

theorem residue_ofNat_ne_one {n : Nat} [n.AtLeastTwo] (h : n < 2147483647) :
    (ofNat(n) : ZMod 2147483647) ≠ 1 := by
  have hcast : (n : ZMod 2147483647) ≠ (1 : Nat) := by
    rw [Ne, residue_cast_inj h (by decide)]
    exact Nat.AtLeastTwo.ne_one
  rwa [Nat.cast_one] at hcast

theorem reference_lcgNext_lt (x : Nat) : lcgNext Config.reference x < 2147483647 :=
  lcgNext_lt reference_legal.1 x

theorem reference_iterate_succ_lcgNext_lt (k x : Nat) :
    (lcgNext Config.reference)^[k + 1] x < 2147483647 := by
  rw [Function.iterate_succ_apply']
  exact reference_lcgNext_lt _

theorem reference_iterate_lcgNext_lt {x : Nat} (hx : x < 2147483647) (k : Nat) :
    (lcgNext Config.reference)^[k] x < 2147483647 := by
  cases k with
  | zero => exact hx
  | succ k => exact reference_iterate_succ_lcgNext_lt k x

/-- On residues the generator is an affine map. -/
theorem residue_lcgNext (x : Nat) :
    (lcgNext Config.reference x : ZMod 2147483647) = 1103515245 * x + 12345 := by
  have hreduced : (lcgNext Config.reference x : ZMod 2147483647) = (1103515245 * x + 12345 : Nat) :=
    ZMod.natCast_mod _ _
  exact_mod_cast hreduced

theorem lcgNext_fixedPoint : lcgNext Config.reference 1934915413 = 1934915413 := by decide

/-- Measured from the fixed point, a step of the generator is a multiplication by `LCG_A`. -/
theorem residue_lcgNext_sub_fixedPoint (x : Nat) :
    (lcgNext Config.reference x : ZMod 2147483647) - 1934915413 =
      1103515245 * (x - 1934915413) := by
  have hfixed : (1934915413 : ZMod 2147483647) = 1103515245 * 1934915413 + 12345 := by
    reduce_mod_char
  rw [residue_lcgNext]
  linear_combination -hfixed

theorem residue_iterate_lcgNext_sub_fixedPoint (k x : Nat) :
    ((lcgNext Config.reference)^[k] x : ZMod 2147483647) - 1934915413 =
      1103515245 ^ k * (x - 1934915413) := by
  induction k with
  | zero => simp
  | succ k ih =>
    rw [Function.iterate_succ_apply', residue_lcgNext_sub_fixedPoint, ih, pow_succ', mul_assoc]

/-- Only the fixed point is at distance 0 from it. -/
theorem residue_sub_fixedPoint_ne_zero {x : Nat} (h : x % 2147483647 ≠ 1934915413) :
    (x : ZMod 2147483647) - 1934915413 ≠ 0 := by
  intro hzero
  have hcast : (x : ZMod 2147483647) = (1934915413 : Nat) := sub_eq_zero.mp hzero
  rw [ZMod.natCast_eq_natCast_iff'] at hcast
  exact h hcast

theorem residue_multiplier_ne_zero : (1103515245 : ZMod 2147483647) ≠ 0 := by
  have hcast : ((1103515245 : Nat) : ZMod 2147483647) ≠ (0 : Nat) := by
    rw [Ne, residue_cast_inj (by decide) (by decide)]
    decide
  rwa [Nat.cast_zero] at hcast

/-- The primes of `LCG_M - 1`. -/
theorem prime_dvd_modulus_sub_one {q : Nat} (hq : q.Prime) (h : q ∣ 2147483646) :
    q = 2 ∨ q = 3 ∨ q = 7 ∨ q = 11 ∨ q = 31 ∨ q = 151 ∨ q = 331 := by
  have hmem : q ∈ Nat.primeFactorsList 2147483646 :=
    (Nat.mem_primeFactorsList (by decide)).mpr ⟨hq, h⟩
  simpa using hmem

/-- `LCG_A` is a primitive root: its order divides `LCG_M - 1` by Fermat, and for no prime `q` of
`LCG_M - 1` does it divide `(LCG_M - 1) / q`. -/
theorem orderOf_residue_multiplier : orderOf (1103515245 : ZMod 2147483647) = 2147483646 := by
  have := residue_modulus_prime
  apply orderOf_eq_of_pow_and_pow_div_prime (by decide)
  · exact ZMod.pow_card_sub_one_eq_one residue_multiplier_ne_zero
  · intro q hq hdvd
    rcases prime_dvd_modulus_sub_one hq hdvd with rfl | rfl | rfl | rfl | rfl | rfl | rfl <;>
      reduce_mod_char <;> exact residue_ofNat_ne_one (by norm_num)

/-- The period is the order of `LCG_A`: `k` steps multiply the distance from the fixed point, which
is not 0, by its `k`-th power. -/
theorem reference_iterate_lcgNext_eq_self_iff {x : Nat} (hx : x < 2147483647) (hne : x ≠ 1934915413)
    (k : Nat) : (lcgNext Config.reference)^[k] x = x ↔ 2147483646 ∣ k := by
  have := residue_modulus_prime
  have hdistance : (x : ZMod 2147483647) - 1934915413 ≠ 0 :=
    residue_sub_fixedPoint_ne_zero (by rwa [Nat.mod_eq_of_lt hx])
  calc (lcgNext Config.reference)^[k] x = x
      ↔ ((lcgNext Config.reference)^[k] x : ZMod 2147483647) = x :=
        (residue_cast_inj (reference_iterate_lcgNext_lt hx k) hx).symm
    _ ↔ (1103515245 : ZMod 2147483647) ^ k * (x - 1934915413) = x - 1934915413 := by
        rw [← residue_iterate_lcgNext_sub_fixedPoint, sub_left_inj]
    _ ↔ (1103515245 : ZMod 2147483647) ^ k = 1 := mul_eq_right₀ hdistance
    _ ↔ 2147483646 ∣ k := by rw [← orderOf_dvd_iff_pow_eq_one, orderOf_residue_multiplier]

/-- No step leads to the fixed point from another residue. -/
theorem reference_iterate_lcgNext_ne_fixedPoint {x : Nat} (h : x % 2147483647 ≠ 1934915413)
    (k : Nat) : (lcgNext Config.reference)^[k] x ≠ 1934915413 := by
  have := residue_modulus_prime
  intro hreached
  have hdistance := residue_iterate_lcgNext_sub_fixedPoint k x
  rw [hreached, Nat.cast_ofNat, sub_self, eq_comm] at hdistance
  exact mul_ne_zero (pow_ne_zero k residue_multiplier_ne_zero) (residue_sub_fixedPoint_ne_zero h)
    hdistance

/-- The generator has an inverse on the residues, as the affine map does. -/
theorem exists_reference_lcgNext_eq {y : Nat} (hy : y < 2147483647) :
    ∃ x, x < 2147483647 ∧ lcgNext Config.reference x = y := by
  have := residue_modulus_prime
  refine ⟨((1103515245 : ZMod 2147483647)⁻¹ * (y - 12345)).val, ZMod.val_lt _, ?_⟩
  rw [← residue_cast_inj (reference_lcgNext_lt _) hy, residue_lcgNext, ZMod.natCast_zmod_val,
    mul_inv_cancel_left₀ residue_multiplier_ne_zero, sub_add_cancel]

theorem reference_lcgNext_inj {x y : Nat} (hx : x < 2147483647) (hy : y < 2147483647)
    (h : lcgNext Config.reference x = lcgNext Config.reference y) : x = y := by
  have := residue_modulus_prime
  have hcast := congrArg (Nat.cast : Nat → ZMod 2147483647) h
  rw [residue_lcgNext, residue_lcgNext, add_left_inj] at hcast
  exact (residue_cast_inj hx hy).mp (mul_left_cancel₀ residue_multiplier_ne_zero hcast)

/-! ## Steps and runs -/

theorem performLine_of_encodes (cfg : Config) (bytes : List Byte) {s : State}
    (h : encodes s = true) : performLine cfg bytes s = completeLine cfg bytes s := by
  obtain ⟨hconf, hfault⟩ := (encodes_iff s).mp h
  simp [performLine, hconf, hfault]

/-- Each way of stepping is the step: the converse of `stepWith_cases`. -/
theorem StepTo.stepWith_eq {cfg : Config} {s t : State} (h : StepTo cfg s t) :
    stepWith cfg s = .next t := by
  unfold stepWith
  cases h with
  | idle hnext => rw [hnext]
  | construct bw lh hnext hlegal => simp [hnext, execWith, execInitWith, hlegal]
  | failConstruction bw lh hnext hlegal => simp [hnext, execWith, execInitWith, hlegal]
  | hold n hnext hheld => simp [hnext, execWith, execEncodeLineWith_of_held cfg hheld]
  | discard n hnext hready hfault =>
    simp [hnext, execWith, execEncodeLineWith, hready, performLine, hfault]
  | reject n hnext hready hfault hconf =>
    simp [hnext, execWith, execEncodeLineWith, hready, performLine, hfault, hconf]
  | complete n hnext hready henc =>
    have hperform :=
      performLine_of_encodes cfg (lineBytes n s) (s := takeBytes n (takeCommand s)) henc
    simp [hnext, execWith, execEncodeLineWith, hready, hperform]
  | illegal w hnext => rw [hnext]; rfl

/-- Every state has a next one, for any constants. -/
theorem exists_stepTo (cfg : Config) (s : State) : ∃ t, StepTo cfg s t := by
  cases hnext : nextCommand s with
  | none => exact ⟨_, .idle hnext⟩
  | some i =>
    cases i with
    | init bw lh =>
      cases hlegal : legalGeometry bw lh with
      | true => exact ⟨_, .construct bw lh hnext hlegal⟩
      | false => exact ⟨_, .failConstruction bw lh hnext hlegal⟩
    | encodeLine n =>
      cases hready : lineReady n s with
      | false => exact ⟨_, .hold n hnext hready⟩
      | true =>
        rcases performLine_cases cfg (lineBytes n s) s with
          ⟨hfault, -⟩ | ⟨hfault, hconf, -⟩ | ⟨henc, -⟩
        · exact ⟨_, .discard n hnext hready hfault⟩
        · exact ⟨_, .reject n hnext hready hfault hconf⟩
        · exact ⟨_, .complete n hnext hready henc⟩
    | illegal w => exact ⟨_, .illegal w hnext⟩

theorem runWith_succ {cfg : Config} {s t : State} (h : stepWith cfg s = .next t) (k : Nat) :
    runWith cfg (k + 1) s = runWith cfg k t := by
  rw [runWith, h]

/-- A relation that every step keeps is kept by runs of any length, and both reach their end. -/
theorem runWith_of_simulation {cfg cfg' : Config} {Related : State → State → Prop}
    (hstep : ∀ {s s' t}, Related s s' → StepTo cfg s t → ∃ t', StepTo cfg' s' t' ∧ Related t t')
    (k : Nat) {s s' : State} (h : Related s s') :
    ∃ t t', runWith cfg k s = .next t ∧ runWith cfg' k s' = .next t' ∧ Related t t' := by
  induction k generalizing s s' with
  | zero => exact ⟨s, s', rfl, rfl, h⟩
  | succ k ih =>
    obtain ⟨t, ht⟩ := exists_stepTo cfg s
    obtain ⟨t', ht', hrelated⟩ := hstep h ht
    rw [runWith_succ ht.stepWith_eq, runWith_succ ht'.stepWith_eq]
    exact ih hrelated

/-- `error(code)` neither reads nor writes `SEED` and the tiles emitted (60_exceptions.md R203). -/
theorem raiseError_with_seed_pixel (kind : ErrorKind) (s : State) (seed : BitVec 32)
    (tiles : List Tile) :
    raiseError kind { s with seed := seed, pixel := tiles } =
      { raiseError kind s with seed := seed, pixel := tiles } := by
  rcases raiseError_cases kind s with ⟨hfault, unchanged⟩ | ⟨hfault, entered⟩
  · rw [unchanged]
    exact raiseError_of_fault kind hfault
  · rw [entered]
    exact raiseError_of_noFault kind hfault

theorem raiseError_with_seed (kind : ErrorKind) (s : State) (seed : BitVec 32) :
    raiseError kind { s with seed := seed } = { raiseError kind s with seed := seed } := by
  rw [raiseError_with_seed_pixel kind s seed s.pixel, ← raiseError_pixel kind s]

theorem raiseError_with_pixel (kind : ErrorKind) (s : State) (tiles : List Tile) :
    raiseError kind { s with pixel := tiles } = { raiseError kind s with pixel := tiles } := by
  rw [raiseError_with_seed_pixel kind s s.seed tiles, ← raiseError_seed kind s]

@[simp] theorem failConstruction_seed (s : State) : (failConstruction s).seed = s.seed := by
  simp [failConstruction]

@[simp] theorem failConstruction_cursor (s : State) : (failConstruction s).cursor = s.cursor := by
  simp [failConstruction]

/-! ## The history of the stream (40_whitener.md R85, 41_line_framer.md R105) -/

/-- What a step does to `SEED`, to `CURSOR` and to the history: it keeps all three, it starts a new
stream, or it whitens the bytes of one more line. -/
theorem StepTo.stream {cfg : Config} {s t : State} (h : StepTo cfg s t) (past : StreamHistory) :
    (past.after s = past ∧ t.seed = s.seed ∧ t.cursor = s.cursor) ∨
      (past.after s = ⟨0, 0⟩ ∧ t.seed = cfg.seed0 ∧ t.cursor = 0) ∨
      ∃ bytes : List Byte, past.after s = ⟨past.bits + 8 * bytes.length, past.lines + 1⟩ ∧
        t.seed = BitVec.ofNat 32 (whiten cfg s.seed.toNat (unpack bytes)).1 ∧
        t.cursor = s.cursor + 1 := by
  cases h with
  | idle hnext => exact .inl ⟨by simp [StreamHistory.after, hnext], rfl, rfl⟩
  | construct bw lh hnext hlegal =>
    exact .inr (.inl ⟨by simp [StreamHistory.after, hnext, hlegal], rfl, rfl⟩)
  | failConstruction bw lh hnext hlegal =>
    exact .inl ⟨by simp [StreamHistory.after, hnext, hlegal], by simp, by simp⟩
  | hold n hnext hheld => exact .inl ⟨by simp [StreamHistory.after, hnext, hheld], rfl, rfl⟩
  | discard n hnext hready hfault =>
    exact .inl ⟨by simp [StreamHistory.after, hnext, encodes, hfault], rfl, rfl⟩
  | reject n hnext hready hfault hconf =>
    exact .inl ⟨by simp [StreamHistory.after, hnext, encodes, hconf], by simp, by simp⟩
  | complete n hnext hready henc =>
    have hbytes : (lineBytes n s).length = n.toNat := lineBytes_length (queued_of_lineReady hready)
    exact .inr (.inr ⟨lineBytes n s, by simp [StreamHistory.after, hnext, hready, henc, hbytes],
      rfl, rfl⟩)
  | illegal w hnext => exact .inl ⟨by simp [StreamHistory.after, hnext], by simp, by simp⟩

/-- One more line on a described stream: the seed is the generator's as many bits further on, and
the cursor has the parity of one more line. -/
theorem StreamHistory.Describes.add_line {cfg : Config} (hcfg : cfg.Legal) {past : StreamHistory}
    {s t : State} (h : past.Describes cfg s) (bytes : List Byte)
    (hseed : t.seed = BitVec.ofNat 32 (whiten cfg s.seed.toNat (unpack bytes)).1)
    (hcursor : t.cursor = s.cursor + 1) :
    (StreamHistory.mk (past.bits + 8 * bytes.length) (past.lines + 1)).Describes cfg t := by
  obtain ⟨hpast, hparity⟩ := h
  constructor
  · rw [hseed, whiten_stored_seed hcfg, whiten_seed, unpack_length, hpast, Nat.add_comm past.bits,
      Function.iterate_add_apply]
  · simp [hcursor, Fin.val_add, hparity]

/-! ## Runs that differ in the tiles emitted before (40_whitener.md R90) -/

/-- The second state differs from the first only in the tiles: to `before` the first has added what
the second has added to `before'`. -/
def SameTilesSince (before before' : List Tile) (s s' : State) : Prop :=
  ∃ tiles, s.pixel = before ++ tiles ∧ s' = { s with pixel := before' ++ tiles }

/-- No step reads the tiles emitted before it. -/
theorem StepTo.sameTilesSince {cfg : Config} {before before' : List Tile} {s s' t : State}
    (hsame : SameTilesSince before before' s s') (h : StepTo cfg s t) :
    ∃ t', StepTo cfg s' t' ∧ SameTilesSince before before' t t' := by
  obtain ⟨tiles, hpixel, rfl⟩ := hsame
  cases h with
  | idle hnext => exact ⟨_, .idle hnext, tiles, hpixel, rfl⟩
  | construct bw lh hnext hlegal =>
    exact ⟨_, .construct bw lh hnext hlegal, tiles, hpixel, rfl⟩
  | failConstruction bw lh hnext hlegal =>
    exact ⟨_, .failConstruction bw lh hnext hlegal, tiles, by simp [hpixel],
      raiseError_with_pixel _ { takeCommand s with configured := false } _⟩
  | hold n hnext hheld => exact ⟨_, .hold n hnext hheld, tiles, hpixel, rfl⟩
  | discard n hnext hready hfault =>
    exact ⟨_, .discard n hnext hready hfault, tiles, hpixel, rfl⟩
  | reject n hnext hready hfault hconf =>
    exact ⟨_, .reject n hnext hready hfault hconf, tiles, by simp [hpixel],
      raiseError_with_pixel _ (takeBytes n (takeCommand s)) _⟩
  | complete n hnext hready henc =>
    refine ⟨_, .complete n hnext hready henc,
      tiles ++ [lineTile cfg (lineBytes n s) (takeBytes n (takeCommand s))], ?_, ?_⟩
    · simp [hpixel]
    · rw [← List.append_assoc]
      rfl
  | illegal w hnext =>
    exact ⟨_, .illegal w hnext, tiles, by simp [hpixel], raiseError_with_pixel _ (takeCommand s) _⟩

/-! ## Runs whose seeds agree modulo LCG_M (40_whitener.md R88) -/

/-- The second state differs from the first only in `SEED`, and there it agrees modulo `LCG_M`. -/
def SameButSeed (cfg : Config) (s s' : State) : Prop :=
  ∃ seed' : BitVec 32, s' = { s with seed := seed' } ∧ seed'.toNat ≡ s.seed.toNat [MOD cfg.lcgM]

/-- The whitener never reads the initial seed of the constants. -/
theorem whiten_with_seed0 (cfg : Config) (seed0 : BitVec 32) (s : Nat) (p : List Bit) :
    whiten { cfg with seed0 := seed0 } s p = whiten cfg s p := by
  induction p generalizing s with
  | nil => rfl
  | cons b p ih =>
    rw [whiten_cons, ih]
    rfl

theorem lineTile_congr {cfg : Config} (seed0' : BitVec 32) (bytes : List Byte) {s : State}
    {seed' : BitVec 32} (h : seed'.toNat ≡ s.seed.toNat [MOD cfg.lcgM]) :
    lineTile { cfg with seed0 := seed0' } bytes { s with seed := seed' } =
      lineTile cfg bytes s := by
  have hbits : (whitenLine { cfg with seed0 := seed0' } bytes { s with seed := seed' }).2 =
      (whitenLine cfg bytes s).2 := by
    rw [whitenLine, whiten_with_seed0, whiten_bits_congr h, whitenLine]
  rw [lineTile, framedLine, hbits]
  rfl

theorem completeLine_sameButSeed {cfg : Config} (seed0' : BitVec 32) (bytes : List Byte)
    {s s' : State} (h : SameButSeed cfg s s') :
    SameButSeed cfg (completeLine cfg bytes s)
      (completeLine { cfg with seed0 := seed0' } bytes s') := by
  obtain ⟨seed', rfl, hseed⟩ := h
  refine ⟨BitVec.ofNat 32 (whiten cfg seed'.toNat (unpack bytes)).1, ?_,
    whiten_stored_seed_congr hseed _⟩
  rw [completeLine, lineTile_congr seed0' bytes hseed, whitenLine, whiten_with_seed0]
  rfl

/-- Steps of the two readings of R88 go together. -/
theorem StepTo.sameButSeed {cfg : Config} {seed0' : BitVec 32}
    (hseed0 : seed0'.toNat ≡ cfg.seed0.toNat [MOD cfg.lcgM]) {s s' t : State}
    (hsame : SameButSeed cfg s s') (h : StepTo cfg s t) :
    ∃ t', StepTo { cfg with seed0 := seed0' } s' t' ∧ SameButSeed cfg t t' := by
  obtain ⟨seed', rfl, hseed⟩ := hsame
  cases h with
  | idle hnext => exact ⟨_, .idle hnext, seed', rfl, hseed⟩
  | construct bw lh hnext hlegal =>
    exact ⟨_, .construct bw lh hnext hlegal, seed0', rfl, hseed0⟩
  | failConstruction bw lh hnext hlegal =>
    exact ⟨_, .failConstruction bw lh hnext hlegal, seed',
      raiseError_with_seed _ { takeCommand s with configured := false } _, by simpa using hseed⟩
  | hold n hnext hheld => exact ⟨_, .hold n hnext hheld, seed', rfl, hseed⟩
  | discard n hnext hready hfault =>
    exact ⟨_, .discard n hnext hready hfault, seed', rfl, hseed⟩
  | reject n hnext hready hfault hconf =>
    exact ⟨_, .reject n hnext hready hfault hconf, seed',
      raiseError_with_seed _ (takeBytes n (takeCommand s)) _, by simpa using hseed⟩
  | complete n hnext hready henc =>
    exact ⟨_, .complete n hnext hready henc,
      completeLine_sameButSeed seed0' _ ⟨seed', rfl, hseed⟩⟩
  | illegal w hnext =>
    exact ⟨_, .illegal w hnext, seed', raiseError_with_seed _ (takeCommand s) _,
      by simpa using hseed⟩

/-! ## Lines offered together (40_whitener.md R85, 41_line_framer.md R105) -/

/-- The cursor `k` lines after a line framed with `cursor`. -/
def cursorAfter (k : Nat) (cursor : Fin 2) : Fin 2 := if k % 2 = 0 then cursor else cursor + 1

theorem cursorAfter_succ (k : Nat) (cursor : Fin 2) :
    cursorAfter (k + 1) cursor = cursorAfter k (cursor + 1) := by
  have htwice : cursor + 1 + 1 = cursor := by revert cursor; decide
  rcases Nat.mod_two_eq_zero_or_one k with heven | hodd
  · simp [cursorAfter, heven, Nat.add_mod]
  · simp [cursorAfter, hodd, Nat.add_mod, htwice]

/-- The tile of the line `bytes` that stands at place `i` of `lines`, cut out of one whitening of
all their bytes from the state before the first of them. -/
def streamTile (cfg : Config) (s : State) (lines : List (List Byte)) (i : Nat) (bytes : List Byte) :
    Tile :=
  rasterize
    (frame cfg (cursorAfter i s.cursor)
      (((whiten cfg s.seed.toNat (unpack lines.flatten)).2.drop
        (8 * (lines.take i).flatten.length)).take (8 * bytes.length)))
    s.bw.toNat s.lh.toNat

/-- The state in which `lines` and their tiles are behind the block, as one whitening leaves it. -/
def afterLines (cfg : Config) (lines : List (List Byte)) (tiles : List Tile)
    (laterWords : List Word) (laterBytes : List Byte) (s : State) : State :=
  { s with
    cmd := laterWords, payload := laterBytes, pixel := s.pixel ++ tiles
    seed := BitVec.ofNat 32 (whiten cfg s.seed.toNat (unpack lines.flatten)).1
    cursor := cursorAfter lines.length s.cursor }

/-- The first part of the stream's whitening is that of the first line alone. -/
theorem streamTile_zero (cfg : Config) (s : State) (bytes : List Byte) (lines : List (List Byte)) :
    streamTile cfg s (bytes :: lines) 0 bytes = lineTile cfg bytes s := by
  have hlength : (whiten cfg s.seed.toNat (unpack bytes)).2.length = 8 * bytes.length := by simp
  simp only [streamTile, List.flatten_cons, unpack_append, whiten_append, List.take_zero,
    List.flatten_nil, List.length_nil, Nat.mul_zero, List.drop_zero]
  rw [← hlength, List.take_left]
  rfl

/-- The parts after the first line are those of the stream that goes on where that line left it. -/
theorem streamTile_succ {cfg : Config} (hcfg : cfg.Legal) (s : State) (bytes : List Byte)
    (lines : List (List Byte)) (i : Nat) (later : List Byte) (tiles : List Tile)
    (laterWords : List Word) (laterBytes : List Byte) :
    streamTile cfg s (bytes :: lines) (i + 1) later =
      streamTile cfg (afterLines cfg [bytes] tiles laterWords laterBytes s) lines i later := by
  have hlength : (whiten cfg s.seed.toNat (unpack bytes)).2.length = 8 * bytes.length := by simp
  have hdrop : 8 * ((bytes :: lines).take (i + 1)).flatten.length =
      (whiten cfg s.seed.toNat (unpack bytes)).2.length +
        8 * (lines.take i).flatten.length := by
    rw [hlength, List.take_succ_cons, List.flatten_cons, List.length_append, Nat.mul_add]
  simp only [streamTile, afterLines, hdrop, List.flatten_cons, List.flatten_nil, List.append_nil,
    unpack_append, whiten_append, List.drop_length_add_append, whiten_stored_seed hcfg,
    cursorAfter_succ]
  rfl

/-- A block that encodes takes one offered line, with its bytes, in one step. -/
theorem stepWith_line (cfg : Config) {s : State} {bytes : List Byte} {laterWords : List Word}
    {laterBytes : List Byte} (hlength : bytes.length < 65536) (henc : encodes s = true)
    (haccept : s.pixelAccept = true)
    (hcmd : s.cmd = encode (.encodeLine (BitVec.ofNat 16 bytes.length)) :: laterWords)
    (hpayload : s.payload = bytes ++ laterBytes) :
    stepWith cfg s =
      .next (afterLines cfg [bytes] [lineTile cfg bytes s] laterWords laterBytes s) := by
  have hcount : (BitVec.ofNat 16 bytes.length).toNat = bytes.length := by
    rw [BitVec.toNat_ofNat, Nat.mod_eq_of_lt hlength]
  have hnext : nextCommand s = some (.encodeLine (BitVec.ofNat 16 bytes.length)) :=
    nextCommand_eq_some_iff.mpr ⟨_, _, hcmd, decode_encode rfl⟩
  have hready : lineReady (BitVec.ofNat 16 bytes.length) s = true :=
    (lineReady_iff _ s).mpr ⟨by simp [hcount, hpayload], fun _ => haccept⟩
  have hbytes : lineBytes (BitVec.ofNat 16 bytes.length) s = bytes := by
    rw [lineBytes, hcount, hpayload, List.take_left]
  have htaken : takeBytes (BitVec.ofNat 16 bytes.length) (takeCommand s) =
      { s with cmd := laterWords, payload := laterBytes } := by
    rw [takeBytes, takeCommand_payload, hcount, hpayload, List.drop_left, takeCommand, hcmd,
      List.tail_cons]
  rw [(StepTo.complete _ hnext hready henc).stepWith_eq, hbytes, htaken, afterLines,
    List.flatten_singleton]
  rfl

/-- A block that has taken the first line and then the others has taken them all. -/
theorem afterLines_afterLines {cfg : Config} (hcfg : cfg.Legal) (bytes : List Byte)
    (lines : List (List Byte)) (tile : Tile) (tiles : List Tile) (midWords laterWords : List Word)
    (midBytes laterBytes : List Byte) (s : State) :
    afterLines cfg lines tiles laterWords laterBytes
        (afterLines cfg [bytes] [tile] midWords midBytes s) =
      afterLines cfg (bytes :: lines) (tile :: tiles) laterWords laterBytes s := by
  simp only [afterLines, List.flatten_cons, List.flatten_nil, List.append_nil, unpack_append,
    whiten_append, whiten_stored_seed hcfg, List.length_cons, List.length_nil, cursorAfter_succ,
    List.append_assoc, List.singleton_append]
  rfl

/-- Offered lines are taken one by one, and their tiles are the parts of one whitening. -/
theorem runWith_lines {cfg : Config} (hcfg : cfg.Legal) (laterWords : List Word)
    (laterBytes : List Byte) {lines : List (List Byte)}
    (hlengths : ∀ bytes ∈ lines, bytes.length < 65536) {s : State}
    (henc : encodes s = true) (haccept : s.pixelAccept = true)
    (hcmd : s.cmd =
      lines.map (fun bytes => encode (.encodeLine (BitVec.ofNat 16 bytes.length))) ++ laterWords)
    (hpayload : s.payload = lines.flatten ++ laterBytes) :
    ∃ tiles, runWith cfg lines.length s =
        .next (afterLines cfg lines tiles laterWords laterBytes s) ∧
      tiles.length = lines.length ∧
      ∀ (i : Nat) (bytes : List Byte), lines[i]? = some bytes →
        tiles[i]? = some (streamTile cfg s lines i bytes) := by
  induction lines generalizing s with
  | nil =>
    refine ⟨[], ?_, rfl, by simp⟩
    obtain rfl : s.cmd = laterWords := hcmd
    obtain rfl : s.payload = laterBytes := hpayload
    simp [runWith, afterLines, cursorAfter]
  | cons bytes lines ih =>
    obtain ⟨hlength, hlengths⟩ := List.forall_mem_cons.mp hlengths
    rw [List.map_cons, List.cons_append] at hcmd
    rw [List.flatten_cons, List.append_assoc] at hpayload
    have hstep := stepWith_line cfg hlength henc haccept hcmd hpayload
    obtain ⟨tiles, hrun, hcount, htiles⟩ := ih hlengths
      (s := afterLines cfg [bytes] [lineTile cfg bytes s] _ _ s) henc haccept rfl rfl
    refine ⟨lineTile cfg bytes s :: tiles, ?_, by simp [hcount], fun i later hlater => ?_⟩
    · rw [List.length_cons, runWith_succ hstep, hrun, afterLines_afterLines hcfg]
    · cases i with
      | zero =>
        obtain rfl : bytes = later := by simpa using hlater
        rw [List.getElem?_cons_zero, streamTile_zero]
      | succ i =>
        rw [List.getElem?_cons_succ, htiles i later (by simpa using hlater),
          streamTile_succ hcfg s bytes lines i later]

end Sys2Proof.Machine

/-! ## The statements -/

open Sys2Proof Sys2Proof.Machine

/-- Settles O32: of the ways of stepping only a successful INIT and a completed line touch the
stream. -/
theorem streamHistoryKeptByStep : Obligations.StreamHistoryKeptByStep := by
  intro cfg past s t hcfg hdescribes hstep
  rcases (stepWith_cases hstep).stream past with
    ⟨hafter, hseed, hcursor⟩ | ⟨hafter, hseed, hcursor⟩ | ⟨bytes, hafter, hseed, hcursor⟩ <;>
    rw [hafter]
  · rwa [StreamHistory.Describes, hseed, hcursor]
  · exact ⟨congrArg BitVec.toNat hseed, congrArg Fin.val hcursor⟩
  · exact hdescribes.add_line hcfg bytes hseed hcursor

/-- Settles O13: INIT leaves two states that differ only in the tiles emitted before, and no later
step reads those. -/
theorem initErasesHistory : Obligations.InitErasesHistory := by
  intro cfg k s₁ s₂ bw lh hnext hlegal hcmd hpayload haccept
  have hnext₂ : nextCommand s₂ = some (.init bw lh) := by rwa [nextCommand, hcmd]
  have hinit₁ := (StepTo.construct (cfg := cfg) bw lh hnext hlegal).stepWith_eq
  have hinit₂ := (StepTo.construct (cfg := cfg) bw lh hnext₂ hlegal).stepWith_eq
  have hsame : SameTilesSince s₁.pixel s₂.pixel (construct cfg bw lh (takeCommand s₁))
      (construct cfg bw lh (takeCommand s₂)) := by
    refine ⟨[], by simp, ?_⟩
    simp [construct, clearError, takeCommand, hcmd, hpayload, haccept]
  obtain ⟨t₁, t₂, hrun₁, hrun₂, tiles, hpixel, rfl⟩ :=
    runWith_of_simulation StepTo.sameTilesSince k hsame
  exact ⟨t₁, _, tiles, (runWith_succ hinit₁ k).trans hrun₁, (runWith_succ hinit₂ k).trans hrun₂,
    hpixel, rfl, rfl⟩

/-- Settles O18, by induction on the lines. -/
theorem linesAreOneStream : Obligations.LinesAreOneStream := by
  intro cfg lines s laterWords laterBytes hcfg hlengths hconf hfault haccept hcmd hpayload
  exact runWith_lines hcfg laterWords laterBytes hlengths ((encodes_iff s).mpr ⟨hconf, hfault⟩)
    haccept hcmd hpayload

/-- Settles O54: every step keeps the two readings alike but for seeds that agree modulo `LCG_M`. -/
theorem reducedSeedsGiveSameRuns : Obligations.ReducedSeedsGiveSameRuns := by
  intro cfg seed0' seed' k s hseed0 hseed
  obtain ⟨t, t', hrun, hrun', seed'', rfl, hseed''⟩ :=
    runWith_of_simulation (StepTo.sameButSeed hseed0) k
      (show SameButSeed cfg s { s with seed := seed' } from ⟨seed', rfl, hseed⟩)
  exact ⟨t, seed'', hrun, hrun', hseed''⟩

/-- Settles O35, by induction on the bits. -/
theorem whitenClosedForm : Obligations.WhitenClosedForm := fun cfg s p =>
  ⟨whiten_seed cfg s p, whiten_length cfg s p, fun _ _ => whiten_getElem? cfg s⟩

/-- Settles O36, by induction on the bits before the cut. -/
theorem whiteningContinues : Obligations.WhiteningContinues := whiten_append

/-- Settles O37: XOR with the same whitening bits twice. -/
theorem whitenSelfInverse : Obligations.WhitenSelfInverse := by
  intro cfg s s' p w hwhiten
  have htwice := whiten_whiten cfg s p
  rwa [hwhiten] at htwice

/-- Settles O38: the first generator step reduces the seed modulo `LCG_M` itself. -/
theorem seedReductionIsInvisible : Obligations.SeedReductionIsInvisible := by
  refine ⟨rfl, by decide, by decide, fun cfg s => ?_⟩
  have hreduced : s % cfg.lcgM ≡ s [MOD cfg.lcgM] := Nat.mod_modEq s cfg.lcgM
  exact ⟨iterate_succ_lcgNext_congr hreduced, fun p => ⟨whiten_bits_congr hreduced p,
    fun hp => congrArg Prod.fst (whiten_congr hreduced hp)⟩⟩

/-- Settles O40: the affine map of the prime field has an inverse. -/
theorem generatorIsBijection : Obligations.GeneratorIsBijection := by
  refine ⟨reference_lcgM_prime, fun y hy => ?_⟩
  obtain ⟨x, hx, hnext⟩ := exists_reference_lcgNext_eq hy
  refine ⟨x, ⟨hx, hnext⟩, fun z hz => ?_⟩
  obtain ⟨hzlt, hznext⟩ := hz
  exact reference_lcgNext_inj hzlt hx (hznext.trans hnext.symm)

/-- Settles O41: a fixed point would have period 1, and the distance from the only one never becomes
0. -/
theorem generatorFixedPoint : Obligations.GeneratorFixedPoint := by
  refine ⟨fun x hx => ⟨fun hfixed => ?_, fun heq => heq ▸ lcgNext_fixedPoint⟩,
    reference_iterate_lcgNext_ne_fixedPoint (by decide)⟩
  by_contra hne
  have hperiod := (reference_iterate_lcgNext_eq_self_iff hx hne 1).mp hfixed
  exact absurd hperiod (by decide)

/-- Settles O42: the period is the order of `LCG_A`, and seeds that repeat in a stream would have a
shorter one. -/
theorem generatorPeriod : Obligations.GeneratorPeriod := by
  refine ⟨fun x k hx hne => reference_iterate_lcgNext_eq_self_iff hx hne k,
    fun j k hj hjk hshort hrepeat => ?_⟩
  obtain ⟨i, rfl⟩ := Nat.exists_eq_succ_of_ne_zero hj.ne'
  have hreturns : (lcgNext Config.reference)^[k - (i + 1)]
      ((lcgNext Config.reference)^[i + 1] Config.reference.seed0.toNat) =
        (lcgNext Config.reference)^[i + 1] Config.reference.seed0.toNat := by
    rw [← Function.iterate_add_apply, Nat.sub_add_cancel hjk.le]
    exact hrepeat.symm
  rw [reference_iterate_lcgNext_eq_self_iff (reference_iterate_succ_lcgNext_lt i _)
    (reference_iterate_lcgNext_ne_fixedPoint (by decide) _)] at hreturns
  exact absurd (Nat.le_of_dvd (Nat.sub_pos_of_lt hjk) hreturns) (Nat.not_le.mpr hshort)

/-- Settles O39: the table by evaluation; the final seed of the 256 bits is the seed after as many
steps. -/
theorem firstWhiteningBits : Obligations.FirstWhiteningBits := by
  refine ⟨by decide, Prod.ext ?_ (by decide +kernel), by decide +kernel⟩
  rw [whiten_seed, List.length_replicate]

end

section
/-! PROOFS. The framer statements of 41_line_framer.md: the order of the payload bits (R100), the
positions of a framed line (R102, R103) and the step codes of consecutive lines (R108). -/

namespace Sys2Proof.Machine

/-! ## Bits -/

/-- A fixed-width bit string is known by its bit sequence. -/
theorem bitsMsbFirst_injective {width : Nat} :
    Function.Injective (bitsMsbFirst : BitVec width → List Bit) := by
  intro x y heq
  refine BitVec.eq_of_getLsbD_eq fun i hi => ?_
  have hbit : (bitsMsbFirst x)[width - 1 - i]? = (bitsMsbFirst y)[width - 1 - i]? := by rw [heq]
  rw [bitsMsbFirst_getElem? x (by omega), bitsMsbFirst_getElem? y (by omega)] at hbit
  have hindex : width - 1 - (width - 1 - i) = i := by omega
  simpa [hindex] using hbit

/-- Each byte fills eight places, its bit 7 first (41_line_framer.md R100). -/
theorem unpack_getElem? (bytes : List Byte) (j : Nat) {c : Nat} (hc : c < 8) :
    (unpack bytes)[8 * j + c]? = bytes[j]?.map fun b => b.getLsbD (7 - c) := by
  have hwidth : ∀ row ∈ bytes.map bitsMsbFirst, row.length = 8 := by simp
  rw [unpack, List.flatMap_def, Nat.mul_comm, getElem?_flatten_of_width hwidth j hc,
    List.getElem?_map]
  cases bytes[j]? with
  | none => rfl
  | some b => exact bitsMsbFirst_getElem? b hc

/-! ## The parts of a framed line (41_line_framer.md R102) -/

theorem frame_drop_six (cfg : Config) (cursor : Fin 2) (w : List Bit) :
    (frame cfg cursor w).drop 6 = stepEntry cfg cursor ++ (w ++ bitsMsbFirst cfg.post) := by
  simp only [frame, List.append_assoc]
  exact List.drop_left' (bitsMsbFirst_length cfg.pre)

theorem frame_drop_eight (cfg : Config) (cursor : Fin 2) (w : List Bit) :
    (frame cfg cursor w).drop 8 = w ++ bitsMsbFirst cfg.post := by
  rw [show 8 = 6 + 2 from rfl, ← List.drop_drop, frame_drop_six]
  exact List.drop_left' (stepEntry_length cfg cursor)

/-- Framed bits 6 and 7 are the step code. -/
theorem frame_stepBits (cfg : Config) (cursor : Fin 2) (w : List Bit) :
    ((frame cfg cursor w).drop 6).take 2 = stepEntry cfg cursor := by
  rw [frame_drop_six]
  exact List.take_left' (stepEntry_length cfg cursor)

theorem frame_getElem?_pre (cfg : Config) (cursor : Fin 2) (w : List Bit) {i : Nat} (h : i < 6) :
    (frame cfg cursor w)[i]? = (bitsMsbFirst cfg.pre)[i]? := by
  simp only [frame, List.append_assoc]
  exact List.getElem?_append_left ((bitsMsbFirst_length cfg.pre).symm ▸ h)

theorem frame_getElem?_step (cfg : Config) (cursor : Fin 2) (w : List Bit) {i : Nat} (h : i < 2) :
    (frame cfg cursor w)[6 + i]? = (stepEntry cfg cursor)[i]? := by
  rw [← List.getElem?_drop, frame_drop_six]
  exact List.getElem?_append_left ((stepEntry_length cfg cursor).symm ▸ h)

theorem frame_getElem?_payload (cfg : Config) (cursor : Fin 2) {w : List Bit} {i : Nat}
    (h : i < w.length) : (frame cfg cursor w)[8 + i]? = w[i]? := by
  rw [← List.getElem?_drop, frame_drop_eight]
  exact List.getElem?_append_left h

theorem frame_getElem?_post (cfg : Config) (cursor : Fin 2) (w : List Bit) (i : Nat) :
    (frame cfg cursor w)[8 + w.length + i]? = (bitsMsbFirst cfg.post)[i]? := by
  rw [← List.getElem?_drop, ← List.drop_drop, frame_drop_eight, List.drop_left]

/-! ## The literals of a framed line (10_state.md R30) -/

theorem bitsMsbFirst_pre (step1 : BitVec 2) :
    bitsMsbFirst (Config.withStep1 step1).pre = [false, false, false, true, true, true] :=
  show bitsMsbFirst 0b000111#6 = _ by decide

theorem bitsMsbFirst_post (step1 : BitVec 2) :
    bitsMsbFirst (Config.withStep1 step1).post = [true, true, true, false, false, false] :=
  show bitsMsbFirst 0b111000#6 = _ by decide

/-- The step-code table for a given `STEP1`, in emission order. -/
theorem stepEntry_withStep1 (step1 : BitVec 2) (cursor : Fin 2) :
    stepEntry (Config.withStep1 step1) cursor =
      if cursor = 0 then [false, true] else [step1.getLsbD 1, step1.getLsbD 0] := by
  unfold stepEntry
  split
  · exact show bitsMsbFirst 0b01#2 = _ by decide
  · rfl

/-! ## The step codes (41_line_framer.md R108) -/

/-- A line and the one after it have the two entries of the step-code table, in one order or the
other. -/
theorem stepEntry_ne_advanceCursor_iff (cfg : Config) (cursor : Fin 2) :
    stepEntry cfg cursor ≠ stepEntry cfg (advanceCursor cursor) ↔ cfg.step1 ≠ cfg.step0 := by
  match cursor with
  | 0 => exact (bitsMsbFirst_injective.ne_iff (x := cfg.step0) (y := cfg.step1)).trans ne_comm
  | 1 => exact bitsMsbFirst_injective.ne_iff (x := cfg.step1) (y := cfg.step0)

/-- The codes `01` and `10` differ in each bit. -/
theorem default_stepEntry_getElem?_ne (cursor : Fin 2) {i : Nat} (h : i < 2) :
    (stepEntry (Config.withStep1 0b10#2) cursor)[i]? ≠
      (stepEntry (Config.withStep1 0b10#2) (advanceCursor cursor))[i]? := by
  revert i cursor
  decide

end Sys2Proof.Machine

/-! ## The statements -/

open Sys2Proof Sys2Proof.Machine

/-- Settles O43: bit `i` of byte `j` stands at place `7 - i` of the byte's eight. -/
theorem unpackMsbFirst : Obligations.UnpackMsbFirst := by
  refine fun bytes => ⟨unpack_length bytes, fun j i b hbyte hi => ?_⟩
  have hindex : 7 - (7 - i) = i := by omega
  rw [unpack_getElem? bytes j (by omega), hbyte, Option.map_some, hindex]

/-- Settles O44, part by part; the literals are the constants of 10_state.md R30. -/
theorem framedLinePositions : Obligations.FramedLinePositions := by
  intro step1 cursor w i
  refine ⟨frame_length _ cursor w, fun hi => ?pre, fun hi => ?step,
    frame_getElem?_payload _ cursor, fun _ => ?post⟩
  case pre =>
    rw [frame_getElem?_pre _ cursor w hi, bitsMsbFirst_pre]
  case step =>
    rw [frame_getElem?_step _ cursor w hi, stepEntry_withStep1]
    split <;> rfl
  case post =>
    rw [frame_getElem?_post, bitsMsbFirst_post]

/-- Settles O45: framed bits 6 and 7 are the step code, and consecutive lines take the two entries
of the table in turn. -/
theorem consecutiveLinesDiffer : Obligations.ConsecutiveLinesDiffer := by
  constructor
  · intro step1
    simp only [frame_stepBits, stepEntry_ne_advanceCursor_iff, forall_const]
    rfl
  · intro cursor w w' i hi
    obtain ⟨k, hk, rfl⟩ : ∃ k < 2, i = 6 + k := ⟨i - 6, by omega, by omega⟩
    rw [frame_getElem?_step _ cursor w hk, frame_getElem?_step _ (advanceCursor cursor) w' hk]
    exact default_stepEntry_getElem?_ne cursor hk

end

section
/-! PROOFS. The rasterizer statement of 42_rasterizer.md: every pixel of the tile of a framed line
(R121), and that a whole tile has no pixel outside its shape (R122). -/

namespace Sys2Proof.Machine

/-! ## Pixels outside a tile -/

/-- A whole tile has no pixel beyond its height or its width (20_memory.md R43). -/
theorem Tile.pixelAt_eq_none {tile : Tile} (h : tile.WellShaped) {r c : Nat}
    (hout : tile.height ≤ r ∨ tile.width ≤ c) : tile.pixelAt r c = none := by
  obtain ⟨hheight, hwidth⟩ := h
  rw [Tile.pixelAt, Option.bind_eq_bind, Option.bind_eq_none_iff]
  intro row hrow
  rcases hout with hbelow | hright
  · rw [List.getElem?_eq_none (hheight.trans_le hbelow)] at hrow
    cases hrow
  · exact List.getElem?_eq_none ((hwidth row (List.mem_of_getElem? hrow)).trans_le hright)

/-! ## Pixels of a rasterized line -/

/-- Framed bit `i` occupies the `bw` columns from `i · bw` (42_rasterizer.md R121). -/
theorem rasterRow_getElem?_of_bit (f : List Bit) {bw : Nat} (i : Nat) {k : Nat} (hk : k < bw) :
    (rasterRow f bw)[i * bw + k]? = f[i]? := by
  have hwidth : ∀ block ∈ f.map (List.replicate bw), block.length = bw :=
    List.forall_mem_map.mpr fun _ _ => List.length_replicate
  rw [rasterRow, List.flatMap_def, getElem?_flatten_of_width hwidth i hk, List.getElem?_map]
  cases f[i]? with
  | none => rfl
  | some b => exact List.getElem?_replicate_of_lt hk

/-- Column `c` shows framed bit `c div bw`; past the last bit neither exists. -/
theorem rasterRow_getElem? (f : List Bit) {bw : Nat} (hbw : 0 < bw) (c : Nat) :
    (rasterRow f bw)[c]? = f[c / bw]? := by
  have hcolumn := rasterRow_getElem?_of_bit f (c / bw) (Nat.mod_lt c hbw)
  rwa [Nat.div_add_mod'] at hcolumn

/-- All `lh` rows of the tile are the one row pattern (42_rasterizer.md R120). -/
theorem rasterize_pixelAt (f : List Bit) (bw : Nat) {lh r : Nat} (hr : r < lh) (c : Nat) :
    (rasterize f bw lh).pixelAt r c = (rasterRow f bw)[c]? := by
  rw [Tile.pixelAt, rasterize_rows, List.getElem?_replicate_of_lt hr]
  rfl

end Sys2Proof.Machine

/-! ## The statements -/

open Sys2Proof Sys2Proof.Machine

/-- Settles O46: inside the tile by the row pattern, where a column can only exist if `bw` is
positive; outside it because the tile is whole. -/
theorem rasterizedPixels : Obligations.RasterizedPixels := by
  intro f bw lh r c
  refine ⟨rasterize_height f bw lh, rasterize_width f bw lh, rasterize_wellShaped f bw lh,
    fun hr hc => ?inside, Tile.pixelAt_eq_none (rasterize_wellShaped f bw lh)⟩
  case inside =>
    have hbw : 0 < bw := Nat.pos_of_mul_pos_left (Nat.zero_lt_of_lt hc)
    rw [rasterize_pixelAt f bw hr, rasterRow_getElem? f hbw]

end

section
/-! PROOFS. The command statements of 45_commands.md: a step takes and performs the decoded head of
`CMD` (R140), the results of INIT (R141) and of ENCODE_LINE with its closed form (R143), what may write the
computational state (R146), and that the payload's values reach only pixels. -/

namespace Sys2Proof.Machine

/-! ## The head of CMD (45_commands.md R140) -/

theorem nextCommand_eq_none_iff {s : State} : nextCommand s = none ↔ s.cmd = [] := by
  simp [nextCommand]

theorem step_of_nextCommand {s : State} {i : Instr} (h : nextCommand s = some i) :
    step s = exec i s := by rw [step, h]

theorem step_of_idle {s : State} (h : nextCommand s = none) : step s = .next s := by rw [step, h]

theorem enabled_of_nextCommand {s : State} {i : Instr} (h : nextCommand s = some i) :
    enabled s = ready i s := by rw [enabled, h, Option.any_some]

theorem enabled_of_idle {s : State} (h : nextCommand s = none) : enabled s = false := by
  rw [enabled, h, Option.any_none]

theorem cmd_ne_nil_of_enabled {s : State} (h : enabled s = true) : s.cmd ≠ [] := by
  intro hempty
  rw [enabled_of_idle (nextCommand_eq_none_iff.mpr hempty)] at h
  exact Bool.false_ne_true h

/-- A step is enabled and takes its word, or it is not enabled and changes nothing (log 3). -/
theorem StepTo.takes_word_or_unchanged {cfg : Config} {s t : State} (h : StepTo cfg s t) :
    (enabled s = true ∧ t.cmd = s.cmd.tail) ∨ (enabled s = false ∧ t = s) := by
  cases h with
  | idle hnext => exact .inr ⟨enabled_of_idle hnext, rfl⟩
  | construct bw lh hnext => exact .inl ⟨enabled_of_nextCommand hnext, rfl⟩
  | failConstruction bw lh hnext => exact .inl ⟨enabled_of_nextCommand hnext, by simp⟩
  | hold n hnext hheld => exact .inr ⟨(enabled_of_nextCommand hnext).trans hheld, rfl⟩
  | discard n hnext hready => exact .inl ⟨(enabled_of_nextCommand hnext).trans hready, rfl⟩
  | reject n hnext hready => exact .inl ⟨(enabled_of_nextCommand hnext).trans hready, by simp⟩
  | complete n hnext hready => exact .inl ⟨(enabled_of_nextCommand hnext).trans hready, rfl⟩
  | illegal w hnext => exact .inl ⟨enabled_of_nextCommand hnext, by simp⟩

/-! ## INIT (45_commands.md R141) -/

theorem legalGeometry_iff (bw lh : BitVec 12) :
    legalGeometry bw lh = true ↔ bw ≠ 0#12 ∧ lh ≠ 0#12 := by
  simp [legalGeometry]

theorem legalGeometry_eq_false_iff (bw lh : BitVec 12) :
    legalGeometry bw lh = false ↔ bw = 0#12 ∨ lh = 0#12 := by
  rw [← Bool.not_eq_true, legalGeometry_iff, not_and_or, not_not, not_not]

theorem exec_init_of_legal {bw lh : BitVec 12} (h : legalGeometry bw lh = true) (s : State) :
    exec (.init bw lh) s = .next (construct Config.reference bw lh (takeCommand s)) := if_pos h

theorem exec_init_of_degenerate {bw lh : BitVec 12} (h : legalGeometry bw lh = false) (s : State) :
    exec (.init bw lh) s = .next (failConstruction (takeCommand s)) :=
  if_neg (Bool.not_eq_true _ ▸ h)

/-- The state after `error(code)` as one record (60_exceptions.md R203, R214). -/
theorem raiseError_eq (kind : ErrorKind) (s : State) :
    raiseError kind s =
      { s with fault := true, errCode := if s.fault then s.errCode else errorCode kind } := by
  rcases raiseError_cases kind s with ⟨hfault, unchanged⟩ | ⟨hfault, entered⟩
  · rw [unchanged, hfault, if_pos rfl, ← hfault]
  · rw [entered, hfault, if_neg Bool.false_ne_true]

/-! ## ENCODE_LINE (45_commands.md R143) -/

/-- A configured block without a fault, with the bytes queued and a consumer that accepts, completes
the line. -/
theorem execEncodeLineWith_of_completes (cfg : Config) {n : BitVec 16} {s : State}
    (hconf : s.configured = true) (hfault : s.fault = false) (hqueued : n.toNat ≤ s.payload.length)
    (haccept : s.pixelAccept = true) :
    execEncodeLineWith cfg n s =
      .next (completeLine cfg (lineBytes n s) (takeBytes n (takeCommand s))) := by
  have henc : encodes (takeBytes n (takeCommand s)) = true :=
    (encodes_iff _).mpr ⟨hconf, hfault⟩
  have hready : lineReady n s = true := (lineReady_iff n s).mpr ⟨hqueued, fun _ => haccept⟩
  rw [execEncodeLineWith, if_pos hready, performLine_of_encodes cfg _ henc]

theorem advanceCursor_eq_ite (cursor : Fin 2) :
    advanceCursor cursor = if cursor = 0 then 1 else 0 := by
  revert cursor
  decide

/-! ## The closed form of a framed line (45_commands.md R143) -/

theorem withStep1_legal (step1 : BitVec 2) : (Config.withStep1 step1).Legal := reference_legal

/-- Payload bit `k` of a line is bit `7 - k mod 8` of byte `k div 8` (41_line_framer.md R100). -/
theorem unpack_getElem?_of_lt {bytes : List Byte} {k : Nat} (hk : k < 8 * bytes.length) :
    (unpack bytes)[k]? = some ((bytes.getD (k / 8) 0#8).getLsbD (7 - k % 8)) := by
  have hbit := unpack_getElem? bytes (k / 8) (Nat.mod_lt k (by decide : 0 < 8))
  have hbyte : k / 8 < bytes.length := Nat.div_lt_of_lt_mul hk
  rwa [Nat.div_add_mod, List.getElem?_eq_getElem hbyte, Option.map_some,
    ← List.getD_eq_getElem bytes 0#8 hbyte] at hbit

/-- Every bit of a framed line, without the stages that compute it. -/
theorem framedLine_getElem? (cfg : Config) (bytes : List Byte) (s : State) {i : Nat}
    (hi : i < 14 + 8 * bytes.length) :
    (framedLine cfg bytes s)[i]? =
      some (closedFormBit cfg s.cursor s.seed.toNat bytes i) := by
  have hlength : (whitenLine cfg bytes s).2.length = 8 * bytes.length := by
    rw [whitenLine, whiten_length, unpack_length]
  rw [framedLine, closedFormBit]
  split
  case isTrue hpre => rw [frame_getElem?_pre _ _ _ hpre, bitsMsbFirst_getElem? _ hpre]
  case isFalse hpre =>
    split
    case isTrue hstep =>
      obtain ⟨k, rfl⟩ : ∃ k, i = 6 + k := ⟨i - 6, by omega⟩
      have hk : k < 2 := by omega
      rw [frame_getElem?_step _ _ _ hk, stepEntry, bitsMsbFirst_getElem? _ hk,
        show 7 - (6 + k) = 2 - 1 - k by omega]
    case isFalse hstep =>
      split
      case isTrue hpayload =>
        obtain ⟨k, rfl⟩ : ∃ k, i = 8 + k := ⟨i - 8, by omega⟩
        have hk : k < 8 * bytes.length := by omega
        rw [frame_getElem?_payload _ _ (hlength.symm ▸ hk), whitenLine,
          whiten_getElem? cfg _ (unpack_getElem?_of_lt hk), Nat.add_sub_cancel_left,
          show 8 + k - 7 = k + 1 by omega]
        rfl
      case isFalse hpayload =>
        obtain ⟨k, rfl⟩ : ∃ k, i = 8 + (whitenLine cfg bytes s).2.length + k :=
          ⟨i - (8 + 8 * bytes.length), by omega⟩
        rw [frame_getElem?_post, bitsMsbFirst_getElem? _ (by omega), hlength,
          show 13 + 8 * bytes.length - (8 + 8 * bytes.length + k) = 6 - 1 - k by omega]

/-- Every pixel of the tile of a line, in the closed form. -/
theorem lineTile_pixelAt (cfg : Config) (bytes : List Byte) (s : State) {r c : Nat}
    (hr : r < s.lh.toNat) (hc : c < (14 + 8 * bytes.length) * s.bw.toNat) :
    (lineTile cfg bytes s).pixelAt r c =
      some (closedFormBit cfg s.cursor s.seed.toNat bytes (c / s.bw.toNat)) := by
  have hbw : 0 < s.bw.toNat := Nat.pos_of_mul_pos_left (Nat.zero_lt_of_lt hc)
  rw [lineTile, rasterize_pixelAt _ _ hr, rasterRow_getElem? _ hbw,
    framedLine_getElem? cfg bytes s (Nat.div_lt_of_lt_mul (Nat.mul_comm _ _ ▸ hc))]

/-! ## Who writes the computational state (45_commands.md R146, 60_exceptions.md R204) -/

/-- What a step does to `SEED`, `CURSOR`, the geometry and the tiles: it emits the tile of a
completed line, or it is a successful INIT, or it keeps them all. -/
theorem StepTo.commits {cfg : Config} {s t : State} (h : StepTo cfg s t) :
    (∃ n tile, nextCommand s = some (.encodeLine n) ∧ s.configured = true ∧ s.fault = false ∧
      t.pixel = s.pixel ++ [tile] ∧ t.cursor = s.cursor + 1 ∧ t.bw = s.bw ∧ t.lh = s.lh ∧
      t.configured = true ∧ t.fault = false ∧ t.errCode = s.errCode) ∨
    (∃ bw lh, nextCommand s = some (.init bw lh) ∧ legalGeometry bw lh = true ∧ t.bw = bw ∧
      t.lh = lh ∧ t.seed = cfg.seed0 ∧ t.cursor = 0 ∧ t.pixel = s.pixel) ∨
    (t.seed = s.seed ∧ t.cursor = s.cursor ∧ t.bw = s.bw ∧ t.lh = s.lh ∧ t.pixel = s.pixel) := by
  cases h with
  | idle => exact .inr (.inr ⟨rfl, rfl, rfl, rfl, rfl⟩)
  | construct bw lh hnext hlegal =>
    exact .inr (.inl ⟨bw, lh, hnext, hlegal, rfl, rfl, rfl, rfl, rfl⟩)
  | failConstruction => exact .inr (.inr (by simp))
  | hold => exact .inr (.inr ⟨rfl, rfl, rfl, rfl, rfl⟩)
  | discard => exact .inr (.inr ⟨rfl, rfl, rfl, rfl, rfl⟩)
  | reject => exact .inr (.inr (by simp))
  | complete n hnext _ henc =>
    obtain ⟨hconf, hfault⟩ := (encodes_iff s).mp henc
    exact .inl ⟨n, _, hnext, hconf, hfault, rfl, rfl, rfl, rfl, hconf, hfault, rfl⟩
  | illegal => exact .inr (.inr (by simp))

/-! ## States that differ only in data (45_commands.md R143, 40_whitener.md R86) -/

/-- The second state is the first with other bytes and other tiles, of the same sizes. -/
theorem sameButData_iff {s s' : State} :
    SameButData s s' ↔ ∃ bytes tiles, s' = { s with payload := bytes, pixel := tiles } ∧
      bytes.length = s.payload.length ∧ tiles.map Tile.shape = s.pixel.map Tile.shape := by
  constructor
  · rintro ⟨hdata, hlength, hshapes⟩
    exact ⟨s'.payload, s'.pixel, hdata, hlength, hshapes⟩
  · rintro ⟨bytes, tiles, rfl, hlength, hshapes⟩
    exact ⟨rfl, hlength, hshapes⟩

namespace SameButData

variable {s s' : State}

theorem nextCommand_eq (h : SameButData s s') : nextCommand s' = nextCommand s := by
  obtain ⟨bytes, tiles, rfl, -, -⟩ := sameButData_iff.mp h
  rfl

theorem fault_eq (h : SameButData s s') : s'.fault = s.fault := by
  obtain ⟨bytes, tiles, rfl, -, -⟩ := sameButData_iff.mp h
  rfl

theorem configured_eq (h : SameButData s s') : s'.configured = s.configured := by
  obtain ⟨bytes, tiles, rfl, -, -⟩ := sameButData_iff.mp h
  rfl

theorem encodes_eq (h : SameButData s s') : encodes s' = encodes s := by
  rw [encodes, encodes, h.configured_eq, h.fault_eq]

/-- Whether a line has a step depends on how many bytes are queued, not on which. -/
theorem lineReady_eq (h : SameButData s s') (n : BitVec 16) : lineReady n s' = lineReady n s := by
  have hencodes := h.encodes_eq
  obtain ⟨bytes, tiles, rfl, hlength, -⟩ := sameButData_iff.mp h
  rw [lineReady, lineReady, hencodes, hlength]

theorem lineBytes_length_eq (h : SameButData s s') (n : BitVec 16) :
    (lineBytes n s').length = (lineBytes n s).length := by
  obtain ⟨-, hlength, -⟩ := h
  rw [lineBytes, lineBytes, List.length_take, List.length_take, hlength]

theorem after_takeCommand (h : SameButData s s') :
    SameButData (takeCommand s) (takeCommand s') := by
  obtain ⟨bytes, tiles, rfl, hlength, hshapes⟩ := sameButData_iff.mp h
  exact ⟨rfl, hlength, hshapes⟩

theorem after_takeBytes (h : SameButData s s') (n : BitVec 16) :
    SameButData (takeBytes n s) (takeBytes n s') := by
  obtain ⟨bytes, tiles, rfl, hlength, hshapes⟩ := sameButData_iff.mp h
  exact ⟨rfl, by simp [hlength], hshapes⟩

theorem after_raiseError (h : SameButData s s') (kind : ErrorKind) :
    SameButData (raiseError kind s) (raiseError kind s') := by
  obtain ⟨bytes, tiles, rfl, hlength, hshapes⟩ := sameButData_iff.mp h
  rw [raiseError_eq, raiseError_eq]
  exact ⟨rfl, hlength, hshapes⟩

theorem after_construct (h : SameButData s s') (cfg : Config) (bw lh : BitVec 12) :
    SameButData (construct cfg bw lh s) (construct cfg bw lh s') := by
  obtain ⟨bytes, tiles, rfl, hlength, hshapes⟩ := sameButData_iff.mp h
  exact ⟨rfl, hlength, hshapes⟩

theorem after_failConstruction (h : SameButData s s') :
    SameButData (failConstruction s) (failConstruction s') := by
  obtain ⟨bytes, tiles, rfl, hlength, hshapes⟩ := sameButData_iff.mp h
  exact after_raiseError ⟨rfl, hlength, hshapes⟩ .configurationError

/-- Lines of equally many bytes leave the same seed (40_whitener.md R86) and emit tiles of one
shape. -/
theorem after_completeLine (h : SameButData s s') (cfg : Config) {line line' : List Byte}
    (hline : line'.length = line.length) :
    SameButData (completeLine cfg line s) (completeLine cfg line' s') := by
  obtain ⟨bytes, tiles, rfl, hlength, hshapes⟩ := sameButData_iff.mp h
  have hseed : (whitenLine cfg line' { s with payload := bytes, pixel := tiles }).1 =
      (whitenLine cfg line s).1 := by
    rw [whitenLine, whitenLine, whiten_seed, whiten_seed, unpack_length, unpack_length, hline]
  refine ⟨?seed, hlength, ?shapes⟩
  case seed =>
    rw [completeLine, hseed]
    rfl
  case shapes => simp [hshapes, Tile.shape, hline]

end SameButData

/-- Steps of two states that differ only in data go together: no command reads a payload byte but to
make the pixels of a tile. -/
theorem StepTo.sameButData {cfg : Config} {s s' t : State} (hsame : SameButData s s')
    (h : StepTo cfg s t) : ∃ t', StepTo cfg s' t' ∧ SameButData t t' := by
  have hcommand := hsame.nextCommand_eq
  have htaken := hsame.after_takeCommand
  cases h with
  | idle hnext => exact ⟨_, .idle (hcommand.trans hnext), hsame⟩
  | construct bw lh hnext hlegal =>
    exact ⟨_, .construct bw lh (hcommand.trans hnext) hlegal, htaken.after_construct cfg bw lh⟩
  | failConstruction bw lh hnext hlegal =>
    exact ⟨_, .failConstruction bw lh (hcommand.trans hnext) hlegal, htaken.after_failConstruction⟩
  | hold n hnext hheld =>
    exact ⟨_, .hold n (hcommand.trans hnext) ((hsame.lineReady_eq n).trans hheld), hsame⟩
  | discard n hnext hready hfault =>
    exact ⟨_, .discard n (hcommand.trans hnext) ((hsame.lineReady_eq n).trans hready)
      (hsame.fault_eq.trans hfault), htaken.after_takeBytes n⟩
  | reject n hnext hready hfault hconf =>
    exact ⟨_, .reject n (hcommand.trans hnext) ((hsame.lineReady_eq n).trans hready)
      (hsame.fault_eq.trans hfault) (hsame.configured_eq.trans hconf),
      (htaken.after_takeBytes n).after_raiseError .configurationError⟩
  | complete n hnext hready henc =>
    exact ⟨_, .complete n (hcommand.trans hnext) ((hsame.lineReady_eq n).trans hready)
      (hsame.encodes_eq.trans henc),
      (htaken.after_takeBytes n).after_completeLine cfg (hsame.lineBytes_length_eq n)⟩
  | illegal w hnext =>
    exact ⟨_, .illegal w (hcommand.trans hnext), htaken.after_raiseError .illegalCommand⟩

end Sys2Proof.Machine

/-! ## The statements -/

open Sys2Proof Sys2Proof.Machine

/-- Settles O19: every step keeps the two blocks alike but for data. -/
theorem payloadValuesReachOnlyPixels : Obligations.PayloadValuesReachOnlyPixels := by
  intro cfg k s₁ s₂ t₁ hsame hrun
  obtain ⟨t, t₂, hrun₁, hrun₂, hsame'⟩ :=
    runWith_of_simulation (StepTo.sameButData (cfg := cfg)) k hsame
  obtain rfl : t₁ = t := Host.Outcome.next.inj (hrun.symm.trans hrun₁)
  exact ⟨t₂, hrun₂, hsame'⟩

/-- Settles O10: the step that the state has is enabled and takes the head word, or is none. -/
theorem enabledStepTakesItsWord : Obligations.EnabledStepTakesItsWord := by
  intro s
  obtain ⟨t, ht⟩ := exists_stepTo Config.reference s
  have hstep : step s = .next t := (step_eq_stepWith s).trans ht.stepWith_eq
  rcases ht.takes_word_or_unchanged with ⟨henabled, htaken⟩ | ⟨hdisabled, rfl⟩
  · obtain ⟨w, rest, hcmd⟩ := List.exists_cons_of_ne_nil (cmd_ne_nil_of_enabled henabled)
    exact ⟨fun _ => ⟨w, t, by rw [htaken, hcmd, List.tail_cons], hstep⟩,
      fun hdisabled => absurd (hdisabled.symm.trans henabled) Bool.false_ne_true⟩
  · exact ⟨fun henabled => absurd (hdisabled.symm.trans henabled) Bool.false_ne_true,
      fun _ => hstep⟩

/-- Settles O15: the tile is the tile of the line, whose pixels are framed bits, and with `STEP1` at
any value the constants are legal, so that `SEED` holds the final seed exactly. -/
theorem encodeLineClosedForm : Obligations.EncodeLineClosedForm := by
  intro step1 n s hconf hfault hqueued haccept
  have hbytes : (lineBytes n s).length = n.toNat := lineBytes_length hqueued
  have hexec := execEncodeLineWith_of_completes (Config.withStep1 step1) hconf hfault hqueued haccept
  refine ⟨lineTile (Config.withStep1 step1) (lineBytes n s) (takeBytes n (takeCommand s)),
    BitVec.ofNat 32 (whitenLine (Config.withStep1 step1) (lineBytes n s) s).1,
    ?next, ?seed, rfl, ?width, rasterize_wellShaped _ _ _, fun r c hr hc => ?pixel⟩
  case next =>
    rw [← advanceCursor_eq_ite]
    exact hexec
  case seed =>
    rw [whitenLine, whiten_stored_seed (withStep1_legal step1), whiten_seed, unpack_length, hbytes]
  case width => rw [lineTile_width, hbytes, takeBytes_bw, takeCommand_bw]
  case pixel => exact lineTile_pixelAt _ _ _ hr (hbytes.symm ▸ hc)

/-- Settles O24, from what each way of stepping writes. -/
theorem computationalStateCommits : Obligations.ComputationalStateCommits := fun _ _ hstep =>
  (step_cases hstep).commits

/-- Settles O7: the next command is the decoded head of `CMD`, and a well-formed command is what its
word decodes to. -/
theorem stepRunsDecodedCommand : Obligations.StepRunsDecodedCommand :=
  ⟨fun _ w rest hcmd => step_of_nextCommand (nextCommand_eq_some_iff.mpr ⟨w, rest, hcmd, rfl⟩),
    fun _ i rest hwf hcmd =>
      step_of_nextCommand (nextCommand_eq_some_iff.mpr ⟨encode i, rest, hcmd, decode_encode hwf⟩),
    fun _ hcmd => step_of_idle (nextCommand_eq_none_iff.mpr hcmd)⟩

/-- Settles O12: the geometry is legal or degenerate, and each is one branch of INIT. -/
theorem initResult : Obligations.InitResult := by
  refine fun bw lh s => ⟨fun hnonzero => ?legal, fun hzero => ?degenerate⟩
  case legal => exact exec_init_of_legal ((legalGeometry_iff bw lh).mpr hnonzero) s
  case degenerate =>
    rw [exec_init_of_degenerate ((legalGeometry_eq_false_iff bw lh).mpr hzero), failConstruction,
      raiseError_eq]
    rfl

/-- Settles O14: under these conditions the line completes. -/
theorem encodeLineResult : Obligations.EncodeLineResult := fun _ _ hconf hfault hqueued haccept =>
  execEncodeLineWith_of_completes Config.reference hconf hfault hqueued haccept

end

section
/-! PROOFS. 48_host_pipeline.md: the padding, the FEC capability, segmentation and slicing into
lines. -/

namespace Sys2Proof.Machine

/-! ## Padding -/

theorem neededPadding_pos {currentSize blockSize : Nat} (hblock : 0 < blockSize) :
    0 < neededPadding currentSize blockSize :=
  Nat.sub_pos_of_lt (Nat.mod_lt currentSize hblock)

theorem neededPadding_le (currentSize blockSize : Nat) :
    neededPadding currentSize blockSize ≤ blockSize :=
  Nat.sub_le ..

/-- The padding leaves the whole blocks of the input as they are and makes its last one full. -/
theorem dvd_add_neededPadding {currentSize blockSize : Nat} (hblock : 0 < blockSize) :
    blockSize ∣ currentSize + neededPadding currentSize blockSize := by
  have hlast : currentSize % blockSize ≤ blockSize := (Nat.mod_lt currentSize hblock).le
  have hwhole := Nat.div_add_mod currentSize blockSize
  have hblocks : currentSize + neededPadding currentSize blockSize =
      blockSize * (currentSize / blockSize) + blockSize := by
    unfold neededPadding
    omega
  exact hblocks ▸ (Nat.dvd_mul_right ..).add (Nat.dvd_refl blockSize)

theorem neededPadding_of_dvd {currentSize blockSize : Nat} (h : blockSize ∣ currentSize) :
    neededPadding currentSize blockSize = blockSize := by
  rw [neededPadding, Nat.mod_eq_zero_of_dvd h, Nat.sub_zero]

theorem pad_zero : pad 0 = .ok [] := rfl

theorem pad_of_le {count : Nat} (hpos : 0 < count) (hle : count ≤ 255) :
    pad count = .ok (List.replicate (count - 1) 0#8 ++ [BitVec.ofNat 8 count]) := by
  rw [pad, if_neg hpos.ne', if_pos hle]

theorem pad_of_gt {count : Nat} (hgt : 255 < count) : pad count = .error .rangeError := by
  rw [pad, if_neg (Nat.ne_zero_of_lt hgt), if_neg hgt.not_ge]

/-! ## Legal parameters and the FEC capability -/

theorem legalParameters_iff (params : CodecParameters) :
    legalParameters params = true ↔
      0 < messageSize params ∧ messageSize params < params.blockSize ∧ params.blockSize ≤ 255 :=
  decide_eq_true_iff

theorem legalParameters_eq_false_iff (params : CodecParameters) :
    legalParameters params = false ↔
      messageSize params = 0 ∨ params.blockSize ≤ messageSize params ∨ 255 < params.blockSize := by
  rw [legalParameters, decide_eq_false_iff_not]
  omega

section
variable {params : CodecParameters}

theorem fecEncode_of_length (hlegal : legalParameters params = true) {message : List Byte}
    (hlength : message.length = messageSize params) :
    fecEncode params message =
      .ok (Config.fecEncode params.blockSize (messageSize params) message).toList := by
  rw [fecEncode, withLegal_of_legal _ hlegal, if_pos hlength]

theorem fecEncode_of_length_ne (hlegal : legalParameters params = true) {message : List Byte}
    (hlength : message.length ≠ messageSize params) :
    fecEncode params message = .error .shapeError := by
  rw [fecEncode, withLegal_of_legal _ hlegal, if_neg hlength]

theorem fecEncode_of_illegal (hillegal : legalParameters params = false) (message : List Byte) :
    fecEncode params message = .error .configurationError :=
  withLegal_of_illegal _ hillegal

theorem paddedInput_of_illegal (hillegal : legalParameters params = false) (input : List Byte) :
    paddedInput params input = .error .configurationError :=
  withLegal_of_illegal _ hillegal

/-- With legal parameters the padding never meets `pad`'s RangeError, because `k < 255`. -/
theorem paddedInput_of_legal (hlegal : legalParameters params = true) (input : List Byte) :
    ∃ padded, paddedInput params input = .ok padded ∧
      padded.length = input.length + neededPadding input.length (messageSize params) := by
  obtain ⟨hpos, hlt, hle⟩ := (legalParameters_iff params).mp hlegal
  have hcount := neededPadding_pos (currentSize := input.length) hpos
  have hbound : neededPadding input.length (messageSize params) ≤ 255 :=
    (neededPadding_le ..).trans (hlt.le.trans hle)
  refine ⟨_, by rw [paddedInput, withLegal_of_legal _ hlegal, pad_of_le hcount hbound]; rfl, ?_⟩
  rw [List.length_append, List.length_append, List.length_replicate, List.length_singleton,
    Nat.sub_add_cancel hcount]

end

/-! ## Chunks -/

/-- The lists are the bytes cut after each `size` bytes: what `chunks` computes with fuel, without the
fuel (`chunks_cutInto`). -/
inductive CutInto (size : Nat) : List Byte → List (List Byte) → Prop
  | nil : CutInto size [] []
  | cons {bytes : List Byte} {rest : List (List Byte)} (hne : bytes ≠ [])
      (hrest : CutInto size (bytes.drop size) rest) : CutInto size bytes (bytes.take size :: rest)

/-- Each chunk of a positive size takes a byte, so fuel for every byte lasts to the end. -/
theorem chunksUpTo_cutInto {size fuel : Nat} {bytes : List Byte} (hsize : 0 < size)
    (hfuel : bytes.length ≤ fuel) : CutInto size bytes (chunksUpTo size fuel bytes) := by
  induction fuel generalizing bytes with
  | zero =>
    obtain rfl := List.eq_nil_of_length_eq_zero (Nat.le_zero.mp hfuel)
    exact .nil
  | succ fuel ih =>
    cases bytes with
    | nil => exact .nil
    | cons b bytes =>
      refine .cons (List.cons_ne_nil b bytes) (ih ?_)
      rw [List.length_drop]
      omega

theorem chunks_cutInto {size : Nat} (hsize : 0 < size) (bytes : List Byte) :
    CutInto size bytes (chunks size bytes) :=
  chunksUpTo_cutInto hsize le_rfl

namespace CutInto
variable {size : Nat} {bytes : List Byte} {lines : List (List Byte)}

theorem flatten_eq (h : CutInto size bytes lines) : lines.flatten = bytes := by
  induction h with
  | nil => rfl
  | cons _ _ ih => rw [List.flatten_cons, ih, List.take_append_drop]

theorem ne_nil_and_length_le (h : CutInto size bytes lines) (hsize : 0 < size) :
    ∀ line ∈ lines, line ≠ [] ∧ line.length ≤ size := by
  induction h with
  | nil => simp
  | cons hne _ ih =>
    have hfirst := List.take_eq_nil_iff.not.mpr (not_or.mpr ⟨hsize.ne', hne⟩)
    exact List.forall_mem_cons.mpr ⟨⟨hfirst, List.length_take_le ..⟩, ih⟩

theorem ne_nil_of_cons {line : List Byte} (h : CutInto size bytes (line :: lines)) : bytes ≠ [] := by
  cases h with
  | cons hne _ => exact hne

/-- A line that another one follows is full: a byte is left beyond it. -/
theorem length_eq_of_mem_dropLast (h : CutInto size bytes lines) :
    ∀ line ∈ lines.dropLast, line.length = size := by
  induction h with
  | nil => simp
  | @cons bytes rest _ hrest ih =>
    cases rest with
    | nil => simp
    | cons next rest =>
      have hfull := le_of_not_ge (List.drop_eq_nil_iff.not.mp hrest.ne_nil_of_cons)
      exact List.forall_mem_cons.mpr ⟨List.length_take_of_le hfull, ih⟩

/-- A whole number of chunks: none is shorter, and they are as many as the size goes into the bytes. -/
theorem length_of_dvd (h : CutInto size bytes lines) (hdvd : size ∣ bytes.length) :
    (∀ line ∈ lines, line.length = size) ∧ lines.length * size = bytes.length := by
  induction h with
  | nil => simp
  | @cons bytes rest hne _ ih =>
    have hfull : size ≤ bytes.length := Nat.le_of_dvd (List.length_pos_of_ne_nil hne) hdvd
    rw [List.length_drop] at ih
    obtain ⟨hall, hcount⟩ := ih (Nat.dvd_sub hdvd (Nat.dvd_refl size))
    refine ⟨List.forall_mem_cons.mpr ⟨List.length_take_of_le hfull, hall⟩, ?_⟩
    rw [List.length_cons, Nat.succ_mul, hcount, Nat.sub_add_cancel hfull]

end CutInto

/-! ## Segmentation -/

/-- Messages of `k` bytes are all encoded, each into `n` bytes. -/
theorem codewordsOf_of_lengths {params : CodecParameters} (hlegal : legalParameters params = true)
    {messages : List (List Byte)}
    (hmessages : ∀ message ∈ messages, message.length = messageSize params) :
    ∃ codewords, codewordsOf params messages = .ok codewords ∧
      codewords.length = messages.length ∧
      ∀ codeword ∈ codewords, codeword.length = params.blockSize := by
  induction messages with
  | nil => exact ⟨[], rfl, rfl, by simp⟩
  | cons message rest ih =>
    obtain ⟨hfirst, hrest⟩ := List.forall_mem_cons.mp hmessages
    obtain ⟨others, hothers, hcount, hall⟩ := ih hrest
    refine ⟨_ :: others, by rw [codewordsOf, fecEncode_of_length hlegal hfirst, hothers]; rfl,
      congrArg Nat.succ hcount, List.forall_mem_cons.mpr ⟨Vector.length_toList, hall⟩⟩

theorem segmentInput_of_illegal {params : CodecParameters}
    (hillegal : legalParameters params = false) (input : List Byte) :
    segmentInput params input = .error .configurationError := by
  rw [segmentInput, paddedInput_of_illegal hillegal]
  rfl

theorem segmentInput_of_padded {params : CodecParameters} {input padded : List Byte}
    (hpadded : paddedInput params input = .ok padded) :
    segmentInput params input = codewordsOf params (chunks (messageSize params) padded) := by
  rw [segmentInput, hpadded]
  rfl

end Sys2Proof.Machine

/-! ## The statements -/

open Sys2Proof Sys2Proof.Machine

/-- Settles O52: the padded length is a multiple of `k`, so that its chunks are messages of `k` bytes,
and each is encoded. -/
theorem segmentationComplete : Obligations.SegmentationComplete := by
  refine fun params input => ⟨fun hillegal => segmentInput_of_illegal hillegal input,
    fun hlegal => ?_⟩
  obtain ⟨hpos, -, -⟩ := (legalParameters_iff params).mp hlegal
  obtain ⟨padded, hpadded, hlength⟩ := paddedInput_of_legal hlegal input
  have hdvd : messageSize params ∣ padded.length := hlength ▸ dvd_add_neededPadding hpos
  obtain ⟨hmessages, hchunks⟩ := (chunks_cutInto hpos padded).length_of_dvd hdvd
  obtain ⟨codewords, hencoded, hcount, hall⟩ := codewordsOf_of_lengths hlegal hmessages
  rw [← hlength]
  refine ⟨codewords, (segmentInput_of_padded hpadded).trans hencoded,
    Nat.mod_eq_zero_of_dvd hdvd, ?_, hall⟩
  rw [hcount, ← hchunks, Nat.mul_div_cancel _ hpos]

/-- Settles O53, from what cutting keeps and how long it makes each line. -/
theorem slicedLinesKeepTheStream : Obligations.SlicedLinesKeepTheStream := fun _ codewords hsize =>
  have hcut := chunks_cutInto hsize codewords.flatten
  ⟨hcut.flatten_eq, hcut.ne_nil_and_length_le hsize, hcut.length_eq_of_mem_dropLast⟩

/-- Settles O50: the padding is what the last block lacks, a full block where it lacks nothing. -/
theorem neededPaddingRange : Obligations.NeededPaddingRange := fun currentSize blockSize hblock =>
  ⟨neededPadding_pos hblock, neededPadding_le currentSize blockSize,
    Nat.mod_eq_zero_of_dvd (dvd_add_neededPadding hblock), neededPadding_of_dvd⟩

/-- Settles O51: a count up to 255 fits in the last byte. -/
theorem paddingBytes : Obligations.PaddingBytes := by
  refine ⟨pad_zero, fun _ => pad_of_gt, fun count hpos hle => ⟨_, pad_of_le hpos hle, ?length,
    List.getLast?_concat, ?value, ?zeros⟩⟩
  case length => simp [Nat.sub_add_cancel hpos]
  case value => exact (BitVec.toNat_ofNat ..).trans (Nat.mod_eq_of_lt (Nat.lt_succ_of_le hle))
  case zeros =>
    rw [List.dropLast_concat]
    exact fun _ => List.eq_of_mem_replicate

/-- Settles O56: the two conditions are legality and its negation, and both uses check it first. -/
theorem fecContract : Obligations.FecContract := by
  refine fun params message => ⟨fun h => ?legal, fun h => ?illegal⟩
  case legal =>
    have hlegal := (legalParameters_iff params).mpr h
    exact ⟨fun hlength => ⟨_, fecEncode_of_length hlegal hlength, Vector.length_toList⟩,
      fecEncode_of_length_ne hlegal⟩
  case illegal =>
    have hillegal := (legalParameters_eq_false_iff params).mpr h
    exact ⟨fecEncode_of_illegal hillegal message, paddedInput_of_illegal hillegal message⟩

end

section
/-! PROOFS. The statements of 60_exceptions.md: errors are next states (R203), the results of an illegal
word (R207) and of a rejected ENCODE_LINE (R208), and how the fault state is entered and left (R213,
R214). -/

namespace Sys2Proof.Machine

/-! ## Rejected lines (60_exceptions.md R208) -/

/-- A line that would not be encoded waits for its bytes only, not for the consumer. -/
theorem execEncodeLineWith_of_not_encodes (cfg : Config) {n : BitVec 16} {s : State}
    (henc : encodes s = false) (hqueued : n.toNat ≤ s.payload.length) :
    execEncodeLineWith cfg n s =
      .next (performLine cfg (lineBytes n s) (takeBytes n (takeCommand s))) :=
  if_pos ((lineReady_iff n s).mpr
    ⟨hqueued, fun h => absurd (henc.symm.trans h) Bool.false_ne_true⟩)

theorem encodes_of_fault {s : State} (h : s.fault = true) : encodes s = false := by
  simp [encodes, h]

theorem encodes_of_unconfigured {s : State} (h : s.configured = false) : encodes s = false := by
  simp [encodes, h]

theorem performLine_of_fault (cfg : Config) (bytes : List Byte) {s : State} (h : s.fault = true) :
    performLine cfg bytes s = s := if_pos h

theorem performLine_of_unconfigured (cfg : Config) (bytes : List Byte) {s : State}
    (hconf : s.configured = false) (hfault : s.fault = false) :
    performLine cfg bytes s = raiseError .configurationError s := by
  simp [performLine, hconf, hfault]

/-! ## Leaving the fault state (60_exceptions.md R213) -/

/-- In the fault state an INIT with degenerate geometry clears `CONFIGURED` and does nothing else
(R206, R214). -/
theorem failConstruction_of_fault {s : State} (h : s.fault = true) :
    failConstruction s = { s with configured := false } := raiseError_of_fault _ h

/-- What a step from the fault state does: it keeps everything but the input queues and
`CONFIGURED`, which only an INIT that fails clears, or it is a successful INIT. -/
theorem StepTo.of_fault {cfg : Config} {s t : State} (h : StepTo cfg s t) (hfault : s.fault = true) :
    (t = { s with cmd := t.cmd, payload := t.payload, configured := t.configured } ∧
      (t.configured = s.configured ∨
        ∃ bw lh, nextCommand s = some (.init bw lh) ∧ legalGeometry bw lh = false ∧
          t.configured = false)) ∨
    ∃ bw lh, nextCommand s = some (.init bw lh) ∧ legalGeometry bw lh = true ∧
      t = Machine.construct cfg bw lh (takeCommand s) := by
  cases h with
  | idle => exact .inl ⟨rfl, .inl rfl⟩
  | construct bw lh hnext hlegal => exact .inr ⟨bw, lh, hnext, hlegal, rfl⟩
  | failConstruction bw lh hnext hlegal =>
    rw [failConstruction_of_fault (s := takeCommand s) hfault]
    exact .inl ⟨rfl, .inr ⟨bw, lh, hnext, hlegal, rfl⟩⟩
  | hold => exact .inl ⟨rfl, .inl rfl⟩
  | discard => exact .inl ⟨rfl, .inl rfl⟩
  | reject n _ _ hnofault => exact absurd (hnofault.symm.trans hfault) Bool.false_ne_true
  | complete n _ _ henc =>
    exact absurd ((encodes_of_fault hfault).symm.trans henc) Bool.false_ne_true
  | illegal =>
    rw [raiseError_of_fault (s := takeCommand s) _ hfault]
    exact .inl ⟨rfl, .inl rfl⟩

/-- The host's ports do not reach `FAULT`; only its hardware reset does (48_host_pipeline.md R177,
70_reset_and_hazards.md R240). -/
theorem hostAct_fault_of_ne_hardwareReset {a : HostAction} (h : a ≠ .hardwareReset) (s : State) :
    (hostAct a s).fault = s.fault := by
  cases a with
  | hardwareReset => exact absurd rfl h
  | offer | supply | setAccept | readStatus => rfl

end Sys2Proof.Machine

/-! ## The statements -/

open Sys2Proof Sys2Proof.Machine

/-- Settles O23: the ways of stepping that the fault state leaves, and the host's moves one by one. -/
theorem onlyInitLeavesFaultState : Obligations.OnlyInitLeavesFaultState := by
  refine ⟨fun s t hfault hstep => ?step, fun a s hfault => ⟨fun hleft => ?left, ?reset⟩⟩
  case step =>
    rcases (step_cases hstep).of_fault hfault with hkept | ⟨bw, lh, hnext, hlegal, rfl⟩
    · exact .inl hkept
    · exact .inr ⟨rfl, rfl, rfl, rfl, bw, lh, hnext, hlegal⟩
  case left =>
    by_contra hne
    rw [hostAct_fault_of_ne_hardwareReset hne, hfault] at hleft
    exact Bool.false_ne_true hleft.symm
  case reset =>
    rintro rfl
    exact hardwareReset_fault s

/-- Settles O9: every state has a way of stepping, and each is a next state. -/
theorem everyStepHasNextState : Obligations.EveryStepHasNextState := fun s =>
  have ⟨t, ht⟩ := exists_stepTo Config.reference s
  ⟨t, (step_eq_stepWith s).trans ht.stepWith_eq⟩

/-- Settles O16: a block that would not encode the line takes it with its bytes and performs one of the
two rejections. -/
theorem encodeLineRejected : Obligations.EncodeLineRejected := by
  refine fun n s hqueued => ⟨fun ⟨hconf, hfault⟩ => ?unconfigured, fun hfault => ?faulted⟩
  case unconfigured =>
    rw [exec_eq_execWith, execWith,
      execEncodeLineWith_of_not_encodes _ (encodes_of_unconfigured hconf) hqueued,
      performLine_of_unconfigured (s := takeBytes n (takeCommand s)) _ _ hconf hfault,
      raiseError_of_noFault (s := takeBytes n (takeCommand s)) _ hfault]
    rfl
  case faulted =>
    rw [exec_eq_execWith, execWith,
      execEncodeLineWith_of_not_encodes _ (encodes_of_fault hfault) hqueued,
      performLine_of_fault (s := takeBytes n (takeCommand s)) _ _ hfault]
    rfl

/-- Settles O21: the word leaves `CMD` and the error is raised on what is left. -/
theorem illegalCommandResult : Obligations.IllegalCommandResult := by
  intro w s
  rw [exec_illegal, raiseError_eq]
  rfl

/-- Settles O22: after any error `FAULT` is set, so that a later error finds it set. -/
theorem errorEntersFaultStateOnce : Obligations.ErrorEntersFaultStateOnce := fun kind s =>
  ⟨raiseError_of_noFault kind, raiseError_of_fault kind,
    fun later => raiseError_of_fault later (raiseError_fault kind s)⟩

end

section
/-! PROOFS. The statements of 70_reset_and_hazards.md: the reset state (R240, R241), the stream that reset
and a successful INIT start alike (R242), and its empty history at reset (R240). -/

namespace Sys2Proof.Machine

/-! ## STATUS after reset (70_reset_and_hazards.md R241) -/

theorem statusWord_of_only_idle {s : State} (hcmd : s.cmd = []) (hconf : s.configured = false)
    (hfault : s.fault = false) (herr : s.errCode = 0#3) : statusWord s = 0x20#32 := by
  rw [statusWord, (idle_iff s).mpr hcmd, hconf, hfault, herr]
  rfl

/-- The machine's reset state is the hardware reset of itself (R240). -/
theorem eq_hardwareReset_of_reset {s r : State} (h : r = hardwareReset s ∨ r = State.reset) :
    ∃ s' : State, r = hardwareReset s' := by
  rcases h with rfl | rfl
  · exact ⟨s, rfl⟩
  · exact ⟨State.reset, rfl⟩

/-! ## The start of a stream (70_reset_and_hazards.md R242) -/

theorem describes_empty_iff (cfg : Config) (s : State) :
    (StreamHistory.mk 0 0).Describes cfg s ↔ s.seed = cfg.seed0 ∧ s.cursor = 0 :=
  and_congr BitVec.toNat_inj Fin.val_eq_zero_iff

theorem hardwareReset_describes_empty (s : State) :
    (StreamHistory.mk 0 0).Describes Config.reference (hardwareReset s) :=
  (describes_empty_iff _ _).mpr ⟨hardwareReset_seed s, hardwareReset_cursor s⟩

theorem construct_describes_empty (cfg : Config) (bw lh : BitVec 12) (s : State) :
    (StreamHistory.mk 0 0).Describes cfg (construct cfg bw lh s) :=
  (describes_empty_iff _ _).mpr ⟨construct_seed cfg bw lh s, construct_cursor cfg bw lh s⟩

/-- The first payload bit of a stretch meets the low bit of the next seed (40_whitener.md R81, R82). -/
theorem whiten_singleton (cfg : Config) (s : Nat) (b : Bit) :
    (whiten cfg s [b]).2 = [Bool.xor b (lcgNext cfg s % 2 == 1)] := by
  rw [whiten_cons, whiten_nil, whiteningBit]

/-- `STEP[0]` in emission order; it does not depend on the open `STEP1` (00_scope.md R9). -/
theorem reference_stepEntry_zero : stepEntry Config.reference 0 = [false, true] :=
  stepEntry_withStep1 0b10#2 0

end Sys2Proof.Machine

/-! ## The statements -/

open Sys2Proof Sys2Proof.Machine

/-- Settles O27: the reset state is a hardware reset too, and that writes every element of R20. -/
theorem resetState : Obligations.ResetState := by
  intro s r h
  obtain ⟨s', rfl⟩ := eq_hardwareReset_of_reset h
  have hstatus : statusWord (hardwareReset s') = 0x20#32 :=
    statusWord_of_only_idle (hardwareReset_cmd s') (hardwareReset_configured s')
      (hardwareReset_fault s') (hardwareReset_errCode s')
  refine ⟨hardwareReset_seed s', hardwareReset_cursor s', hardwareReset_bw s', hardwareReset_lh s',
    hardwareReset_configured s', hardwareReset_fault s', hardwareReset_errCode s',
    hardwareReset_cmd s', hardwareReset_payload s', ?status, hardwareReset_pixel s⟩
  case status =>
    rw [hstatus]
    rfl

/-- Settles O33: an empty history is that of `SEED0` and cursor 0, the reset values. -/
theorem streamHistoryAtReset : Obligations.StreamHistoryAtReset := fun cfg =>
  (describes_empty_iff cfg _).mpr ⟨rfl, rfl⟩

/-- Settles O28: after either the history of the stream is empty, which fixes the next whitening bit and
the next step code. -/
theorem resetAndInitAgree : Obligations.ResetAndInitAgree := by
  intro bw lh s t hbw hlh hinit
  have hlegal : legalGeometry bw lh = true := (legalGeometry_iff bw lh).mpr ⟨hbw, hlh⟩
  obtain rfl : Machine.construct Config.reference bw lh (takeCommand s) = t :=
    Host.Outcome.next.inj ((exec_init_of_legal hlegal s).symm.trans hinit)
  refine ⟨fun r hr => ?stream, ⟨hardwareReset_configured s, hardwareReset_bw s,
    hardwareReset_lh s⟩, ⟨construct_configured .., construct_bw .., construct_lh ..⟩⟩
  case stream =>
    have hempty : (StreamHistory.mk 0 0).Describes Config.reference r := by
      rcases hr with rfl | rfl
      · exact hardwareReset_describes_empty s
      · exact construct_describes_empty Config.reference bw lh (takeCommand s)
    obtain ⟨hseed, hcursor⟩ := (describes_empty_iff _ _).mp hempty
    rw [hseed, hcursor]
    exact ⟨rfl, rfl, whiten_singleton _ _, reference_stepEntry_zero⟩

end
